-- ==== Sys2Proof/Word.lean ====
section
/-! DEFINITION. The word types of the block: bytes, 4-bit codes, bus addresses, the bank value, request and decode words,
pixels. All values are unsigned and bit 0 is the least significant (spec/00_scope.md R8). -/

namespace Sys2Proof

/-- The bus data width (spec/00_scope.md R5). -/
abbrev Byte := BitVec 8

/-- A colour code, and a cell of the colour table: 4 significant bits (R5, R15). -/
abbrev Nibble := BitVec 4

/-- A bus address: 16 bits (R5, R40). -/
abbrev Addr := BitVec 16

/-- The bank-select value: 3 bits, all 8 values legal (R20, R72). -/
abbrev Bank := BitVec 3

/-- A request word `Q` or a decode word `T` (spec/30_encoding.md R61, R62). -/
abbrev OpWord := BitVec 32

/-- A pixel, as the number of its value in the pixel type. Which pixel type is the parameter `Colour` of R6: the field
`colourCount` of the configuration says how many values it has. No rule computes with colours, they are only copied (decision
D27). DESIGN CHOICE of representation (notes/assumptions/15.md). -/
abbrev Colour := Nat

end Sys2Proof
end

