-- ==== Sys2Proof/Config.lean ====
section
/-! DEFINITION. The configuration record `Cfg` of spec/00_scope.md R6: the parameters the spec leaves open, each a field.
`Config.cfg` is the configuration the machine has after `State.reset`: the spec's default where R6 gives one, an opaque
constant where it gives none (notes/assumptions/1.md to 3.md). Statements quantify over the record. -/

namespace Sys2Proof

/-- A stub register (R31): "either a stub returning a fixed value or an unimplemented stub logged and returning 0". The
spec's constraint that `STUB_LOGS` implies `STUB_RD = 0` holds by the shape of the type (notes/assumptions/16.md). -/
inductive Stub where
  /-- returns a fixed value and logs nothing -/
  | fixed (value : Byte)
  /-- returns 0 and logs `UnimplementedRegisterRead` -/
  | unimplemented
deriving DecidableEq, Repr

/-- The parameters of R6, under the spec's names in lower camel case. -/
structure Cfg where
  /-- `BASIC_ROM`, 8192 bytes (R17) -/
  basicRom : Vector Byte 8192
  /-- `KERNAL_ROM`, 8192 bytes (R17) -/
  kernalRom : Vector Byte 8192
  /-- `CHAR_ROM`, 4096 bytes, on the bus and as the glyph ROM (R17) -/
  charRom : Vector Byte 4096
  /-- `RAM1_RESET`: the byte `ram[1]` holds after reset; its low three bits are 7 (R38) -/
  ram1Reset : Byte
  /-- `COLOR_RESET`: every colour-table cell after reset -/
  colorReset : Nibble
  /-- `BG0_RESET`: the background colour code after reset -/
  bg0Reset : Nibble
  /-- `IOTA_LIVE`: which register indices of I/O-timer block A are live bytes (R29) -/
  iotaLive : Vector Bool 16
  /-- `STUB_RD` and `STUB_LOGS` of the video block, by register index -/
  videoStubs : Vector Stub 64
  /-- the same of the sound block -/
  soundStubs : Vector Stub 32
  /-- the same of I/O-timer block A (unused at a live index) -/
  iotaStubs : Vector Stub 16
  /-- the same of I/O-timer block B -/
  iotbStubs : Vector Stub 16
  /-- `ROWS` of the character grid -/
  rows : Nat
  /-- `COLS` of the character grid -/
  cols : Nat
  /-- `SCREEN_BASE`: where the text buffer starts in `ram` -/
  screenBase : Addr
  /-- `CODEPAGE_OFFSET`, counted in glyphs (R103) -/
  codepageOffset : Nat
  /-- `Colour`, the pixel type (D27), as the number of its values: a colour is a number below it (notes/assumptions/15.md) -/
  colourCount : Nat
  /-- `PALETTE`, 16 values of the pixel type (R112) -/
  palette : Vector (Fin colourCount) 16
  /-- `DEFAULT_TILE_COLOUR`, a value of the pixel type (R105) -/
  defaultTileColour : Fin colourCount
  /-- `FB_W` -/
  fbW : Nat
  /-- `FB_H` -/
  fbH : Nat
  /-- `ORIGIN_X` -/
  originX : Nat
  /-- `ORIGIN_Y` -/
  originY : Nat
  /-- `CURSOR_COL_ADDR` (R113) -/
  cursorColAddr : Addr
  /-- `CURSOR_ROW_ADDR` (R113) -/
  cursorRowAddr : Addr
  /-- `TEXT_COLOUR_ADDR` (R113) -/
  textColourAddr : Addr
  /-- `CURSOR_OVER_TEXT` (R113) -/
  cursorOverText : Bool
deriving DecidableEq, Repr

namespace Config

/-! Free values: the spec gives these parameters no value and no default (notes/assumptions/2.md). -/

/-- `BASIC_ROM`: image data the source excludes (R17, decision D32). -/
opaque basicRom : Vector Byte 8192

/-- `KERNAL_ROM` (R17, D32). -/
opaque kernalRom : Vector Byte 8192

/-- `CHAR_ROM` (R17, D32). -/
opaque charRom : Vector Byte 4096

/-- `PALETTE` (R112, D27). -/
opaque palette : Vector (Fin 16777216) 16

/-- `DEFAULT_TILE_COLOUR` (R105, D26). -/
opaque defaultTileColour : Fin 16777216

/-- `BG0_RESET`: OPEN (R26, D10). -/
opaque bg0Reset : Nibble

/-- The configuration of `State.reset`. DESIGN CHOICE (notes/assumptions/3.md): R6's defaults; PRESUMED among them, from the
family of the original machine: `iotaLive`, `screenBase`, `cursorColAddr`, `cursorRowAddr`, `textColourAddr`. -/
def cfg : Cfg where
  basicRom := basicRom
  kernalRom := kernalRom
  charRom := charRom
  ram1Reset := 0x07
  colorReset := 0
  bg0Reset := bg0Reset
  iotaLive := #v[true, true, true, true, false, false, false, false,
    false, false, false, false, false, false, false, false]
  videoStubs := Vector.replicate 64 .unimplemented
  soundStubs := Vector.replicate 32 .unimplemented
  iotaStubs := Vector.replicate 16 .unimplemented
  iotbStubs := Vector.replicate 16 .unimplemented
  rows := 25
  cols := 40
  screenBase := 0x0400
  codepageOffset := 0
  colourCount := 16777216
  palette := palette
  defaultTileColour := defaultTileColour
  fbW := 320
  fbH := 200
  originX := 0
  originY := 0
  cursorColAddr := 0x00D3
  cursorRowAddr := 0x00D6
  textColourAddr := 0x0286
  cursorOverText := true

end Config

end Sys2Proof
end

