-- ==== Sys2Proof/Syntax.lean ====
section
/-! DEFINITION. The operations of the block (spec/30_encoding.md R63) as ONE inductive, and the request a master issues.
The 42 rows of spec/opcode_table.json are bit patterns of these 19 operations; a mnemonic's variants are told apart by the
`bank` and `addr` operands, so one constructor stands for all rows of its mnemonic. -/

namespace Sys2Proof

/-- A resolved operation with the fields of its decode word `T` (R62). `bank` is the bank-select value that the decoder put
into `T[26:24]`; it selects the operation and plays no part in its effect (notes/assumptions/14.md). A read ignores
`T[7:0]`, FRAME and RESET ignore `T[27:0]` (R61). -/
inductive Instr where
  /-- `RD.RAM` (R80) -/
  | rdRam (bank : Bank) (addr : Addr)
  /-- `RD.BASIC` (R81) -/
  | rdBasic (bank : Bank) (addr : Addr)
  /-- `RD.KERNAL` (R82) -/
  | rdKernal (bank : Bank) (addr : Addr)
  /-- `RD.CHAR` (R83) -/
  | rdChar (bank : Bank) (addr : Addr)
  /-- `RD.COLOR` (R85) -/
  | rdColor (bank : Bank) (addr : Addr)
  /-- `RD.SOUND` (R86) -/
  | rdSound (bank : Bank) (addr : Addr)
  /-- `RD.VIDEO` (R87) -/
  | rdVideo (bank : Bank) (addr : Addr)
  /-- `RD.IOTA` (R88) -/
  | rdIota (bank : Bank) (addr : Addr)
  /-- `RD.IOTB` (R89) -/
  | rdIotb (bank : Bank) (addr : Addr)
  /-- `RD.UNMAPPED` (R90) -/
  | rdUnmapped (bank : Bank) (addr : Addr)
  /-- `WR.RAM` (R92) -/
  | wrRam (bank : Bank) (addr : Addr) (data : Byte)
  /-- `WR.COLOR` (R93) -/
  | wrColor (bank : Bank) (addr : Addr) (data : Byte)
  /-- `WR.SOUND` (R94) -/
  | wrSound (bank : Bank) (addr : Addr) (data : Byte)
  /-- `WR.VIDEO` (R95) -/
  | wrVideo (bank : Bank) (addr : Addr) (data : Byte)
  /-- `WR.IOTA` (R96) -/
  | wrIota (bank : Bank) (addr : Addr) (data : Byte)
  /-- `WR.IOTB` (R97) -/
  | wrIotb (bank : Bank) (addr : Addr) (data : Byte)
  /-- `WR.UNMAPPED` (R100) -/
  | wrUnmapped (bank : Bank) (addr : Addr) (data : Byte)
  /-- `FRAME` (R107) -/
  | frame
  /-- `RESET` (R136) -/
  | reset
deriving DecidableEq, Repr

/-- One request on the request port (R36): the request word `Q` (R61) and the level of the input `cursor_visible` while it
is served, which only FRAME samples (R107). -/
structure Request where
  word : OpWord
  cursorVisible : Bool
deriving DecidableEq, Repr

/-- The names of the 19 operations, for the rows of the decode table. -/
inductive Mnemonic where
  | rdRam | rdBasic | rdKernal | rdChar | rdColor | rdSound | rdVideo | rdIota | rdIotb | rdUnmapped
  | wrRam | wrColor | wrSound | wrVideo | wrIota | wrIotb | wrUnmapped
  | frame | reset
deriving DecidableEq, Repr

end Sys2Proof
end

