-- ==== Sys2Proof/WellFormed.lean ====
section
/-! DEFINITION. Which instructions and which configurations have a meaning. `Instr.wf` states the **Encoding** clause of
each operation's rule (R80 to R100) as ranges of the bus address and conditions on the bank, in the closed form of
spec/20_memory.md R48; it shares nothing with the match and mask patterns of the decoder. `Cfg.valid` is the constraint
column of spec/00_scope.md R6. -/

namespace Sys2Proof

/-- `lo <= a <= hi`, both ends included (R8). -/
def Addr.within (a lo hi : Addr) : Bool := decide (lo.toNat ≤ a.toNat) && decide (a.toNat ≤ hi.toNat)

/-- The register window, $D000 to $DFFF (R10). -/
def Addr.inRegisterWindow (a : Addr) : Bool := Addr.within a 0xD000 0xDFFF

/-- `bank[1:0] != 0b00`. -/
def Bank.registersWritable (b : Bank) : Bool := b.extractLsb' 0 2 != 0

/-- BASIC is what a read of `a` sees (R81). -/
def basicVisible (b : Bank) (a : Addr) : Bool := (b.extractLsb' 0 2 == 3) && Addr.within a 0xA000 0xBFFF

/-- KERNAL is what a read of `a` sees (R82). -/
def kernalVisible (b : Bank) (a : Addr) : Bool := b.getLsbD 1 && Addr.within a 0xE000 0xFFFF

/-- CHARACTER-ROM is what a read of `a` sees: bank 1, 2 or 3 in the register window (R83). -/
def charVisible (b : Bank) (a : Addr) : Bool :=
  !b.getLsbD 2 && Bank.registersWritable b && Addr.inRegisterWindow a

/-- REGISTERS is what a read of `a` sees: bank 5, 6 or 7 in the register window (R84). -/
def registersVisible (b : Bank) (a : Addr) : Bool :=
  b.getLsbD 2 && Bank.registersWritable b && Addr.inRegisterWindow a

/-- A write of `a` takes the register path (R91). -/
def onRegisterPath (b : Bank) (a : Addr) : Bool := Bank.registersWritable b && Addr.inRegisterWindow a

/-- The operands lie where the operation's **Encoding** clause puts them. -/
def Instr.wf : Instr → Bool
  | .rdRam b a => !(basicVisible b a || kernalVisible b a || charVisible b a || registersVisible b a)
  | .rdBasic b a => basicVisible b a
  | .rdKernal b a => kernalVisible b a
  | .rdChar b a => charVisible b a
  | .rdColor b a => registersVisible b a && Addr.within a 0xD800 0xDBFF
  | .rdSound b a => registersVisible b a && Addr.within a 0xD400 0xD7FF
  | .rdVideo b a => registersVisible b a && Addr.within a 0xD000 0xD3FF
  | .rdIota b a => registersVisible b a && Addr.within a 0xDC00 0xDCFF
  | .rdIotb b a => registersVisible b a && Addr.within a 0xDD00 0xDDFF
  | .rdUnmapped b a => registersVisible b a && Addr.within a 0xDE00 0xDFFF
  | .wrRam b a _ => !onRegisterPath b a
  | .wrColor b a _ => onRegisterPath b a && Addr.within a 0xD800 0xDBFF
  | .wrSound b a _ => onRegisterPath b a && Addr.within a 0xD400 0xD7FF
  | .wrVideo b a _ => onRegisterPath b a && Addr.within a 0xD000 0xD3FF
  | .wrIota b a _ => onRegisterPath b a && Addr.within a 0xDC00 0xDCFF
  | .wrIotb b a _ => onRegisterPath b a && Addr.within a 0xDD00 0xDDFF
  | .wrUnmapped b a _ => onRegisterPath b a && Addr.within a 0xDE00 0xDFFF
  | .frame => true
  | .reset => true

/-- The constraints of R6 that the types do not already carry. "A configuration that breaks a constraint is refused: the
model gives it no meaning." -/
def Cfg.valid (c : Cfg) : Bool :=
  (c.ram1Reset.extractLsb' 0 3 == 7)
    && decide (0 < c.rows) && decide (0 < c.cols)
    && decide (c.rows * c.cols ≤ 1024)
    && decide (c.screenBase.toNat + c.rows * c.cols ≤ 65536)
    && decide (c.codepageOffset + 255 ≤ 511)
    && decide (c.originX + 8 * c.cols ≤ c.fbW)
    && decide (c.originY + 8 * c.rows ≤ c.fbH)

end Sys2Proof
end

