-- ==== Sys2Proof/Decode.lean ====
section
/-! DEFINITION. The words of the block and their decoding: the request word `Q` (spec/30_encoding.md R61), the decode word
`T` that the decoder forms from it and the bank (R62), the table of match and mask patterns (R64, R65, R67, as
spec/opcode_table.json has them), the decoder, and after it the encoder, the spellings of R74 and the pseudo-operations of
R75. The decoder rejects by name what R71 reserves. -/

namespace Sys2Proof

/-- `op`, bits 31 to 28 (R61). -/
def opField (w : OpWord) : BitVec 4 := w.extractLsb' 28 4

/-- `zero` of a request word, bits 27 to 24 (R61). -/
def zeroField (w : OpWord) : BitVec 4 := w.extractLsb' 24 4

/-- `bank` of a decode word, bits 26 to 24 (R62). -/
def bankField (w : OpWord) : Bank := w.extractLsb' 24 3

/-- `addr`, bits 23 to 8. -/
def addrField (w : OpWord) : Addr := w.extractLsb' 8 16

/-- `data`, bits 7 to 0. -/
def dataField (w : OpWord) : Byte := w.extractLsb' 0 8

/-- A decode word from its fields, `rsv` being 0 (R62). With bank 0 it is a request word (R61). -/
def mkWord (op : BitVec 4) (bank : Bank) (addr : Addr) (data : Byte) : OpWord :=
  op ++ 0#1 ++ bank ++ addr ++ data

/-- Why a word has no meaning (R71). -/
inductive DecodeError where
  /-- `op` is none of RD, WR, FRAME, RESET -/
  | reservedOp
  /-- RD or WR with a nonzero bit that must be zero: `Q[27:24]`, or `T[27]` -/
  | reservedBits
deriving DecidableEq, Repr

/-- A row of the decode table: it selects its operation iff `(T & mask) = pattern` (R64). -/
structure Row where
  mnemonic : Mnemonic
  pattern : OpWord
  mask : OpWord
deriving DecidableEq, Repr

/-- The row selects the decode word. -/
def Row.matches (r : Row) (t : OpWord) : Bool := t &&& r.mask == r.pattern

/-- Rows of `RD.RAM`, variants a to g (R65). -/
def readRamRows : List Row := [
  ⟨.rdRam, 0x00000000, 0xF8800000⟩,
  ⟨.rdRam, 0x00800000, 0xF8E00000⟩,
  ⟨.rdRam, 0x00C00000, 0xF8F00000⟩,
  ⟨.rdRam, 0x00A00000, 0xF9E00000⟩,
  ⟨.rdRam, 0x01A00000, 0xFBE00000⟩,
  ⟨.rdRam, 0x00E00000, 0xFAE00000⟩,
  ⟨.rdRam, 0x00D00000, 0xFBF00000⟩]

/-- Rows of `RD.BASIC`, `RD.KERNAL`, `RD.CHAR` (R65). -/
def readRomRows : List Row := [
  ⟨.rdBasic, 0x03A00000, 0xFBE00000⟩,
  ⟨.rdKernal, 0x02E00000, 0xFAE00000⟩,
  ⟨.rdChar, 0x01D00000, 0xFDF00000⟩,
  ⟨.rdChar, 0x02D00000, 0xFFF00000⟩]

/-- Rows of the reads of the REGISTERS region (R65, R66). -/
def readRegisterRows : List Row := [
  ⟨.rdVideo, 0x05D00000, 0xFDFC0000⟩,
  ⟨.rdVideo, 0x06D00000, 0xFFFC0000⟩,
  ⟨.rdSound, 0x05D40000, 0xFDFC0000⟩,
  ⟨.rdSound, 0x06D40000, 0xFFFC0000⟩,
  ⟨.rdColor, 0x05D80000, 0xFDFC0000⟩,
  ⟨.rdColor, 0x06D80000, 0xFFFC0000⟩,
  ⟨.rdIota, 0x05DC0000, 0xFDFF0000⟩,
  ⟨.rdIota, 0x06DC0000, 0xFFFF0000⟩,
  ⟨.rdIotb, 0x05DD0000, 0xFDFF0000⟩,
  ⟨.rdIotb, 0x06DD0000, 0xFFFF0000⟩,
  ⟨.rdUnmapped, 0x05DE0000, 0xFDFE0000⟩,
  ⟨.rdUnmapped, 0x06DE0000, 0xFFFE0000⟩]

/-- Rows of `WR.RAM`, variants a to e (R67). -/
def writeRamRows : List Row := [
  ⟨.wrRam, 0x10000000, 0xF8800000⟩,
  ⟨.wrRam, 0x10800000, 0xF8C00000⟩,
  ⟨.wrRam, 0x10C00000, 0xF8F00000⟩,
  ⟨.wrRam, 0x10E00000, 0xF8E00000⟩,
  ⟨.wrRam, 0x10D00000, 0xFBF00000⟩]

/-- Rows of the register path (R67, R66). -/
def writeRegisterRows : List Row := [
  ⟨.wrVideo, 0x11D00000, 0xF9FC0000⟩,
  ⟨.wrVideo, 0x12D00000, 0xFBFC0000⟩,
  ⟨.wrSound, 0x11D40000, 0xF9FC0000⟩,
  ⟨.wrSound, 0x12D40000, 0xFBFC0000⟩,
  ⟨.wrColor, 0x11D80000, 0xF9FC0000⟩,
  ⟨.wrColor, 0x12D80000, 0xFBFC0000⟩,
  ⟨.wrIota, 0x11DC0000, 0xF9FF0000⟩,
  ⟨.wrIota, 0x12DC0000, 0xFBFF0000⟩,
  ⟨.wrIotb, 0x11DD0000, 0xF9FF0000⟩,
  ⟨.wrIotb, 0x12DD0000, 0xFBFF0000⟩,
  ⟨.wrUnmapped, 0x11DE0000, 0xF9FE0000⟩,
  ⟨.wrUnmapped, 0x12DE0000, 0xFBFE0000⟩]

/-- Rows of `FRAME` and `RESET` (R61). -/
def hostRows : List Row := [
  ⟨.frame, 0x20000000, 0xF0000000⟩,
  ⟨.reset, 0x30000000, 0xF0000000⟩]

/-- The 42 rows of spec/opcode_table.json, in its order. -/
def decodeTable : List Row :=
  readRamRows ++ readRomRows ++ readRegisterRows ++ writeRamRows ++ writeRegisterRows ++ hostRows

/-- The operation with its operands taken from the fields of the decode word (R62). -/
def Mnemonic.build (m : Mnemonic) (t : OpWord) : Instr :=
  match m with
  | .rdRam => .rdRam (bankField t) (addrField t)
  | .rdBasic => .rdBasic (bankField t) (addrField t)
  | .rdKernal => .rdKernal (bankField t) (addrField t)
  | .rdChar => .rdChar (bankField t) (addrField t)
  | .rdColor => .rdColor (bankField t) (addrField t)
  | .rdSound => .rdSound (bankField t) (addrField t)
  | .rdVideo => .rdVideo (bankField t) (addrField t)
  | .rdIota => .rdIota (bankField t) (addrField t)
  | .rdIotb => .rdIotb (bankField t) (addrField t)
  | .rdUnmapped => .rdUnmapped (bankField t) (addrField t)
  | .wrRam => .wrRam (bankField t) (addrField t) (dataField t)
  | .wrColor => .wrColor (bankField t) (addrField t) (dataField t)
  | .wrSound => .wrSound (bankField t) (addrField t) (dataField t)
  | .wrVideo => .wrVideo (bankField t) (addrField t) (dataField t)
  | .wrIota => .wrIota (bankField t) (addrField t) (dataField t)
  | .wrIotb => .wrIotb (bankField t) (addrField t) (dataField t)
  | .wrUnmapped => .wrUnmapped (bankField t) (addrField t) (dataField t)
  | .frame => .frame
  | .reset => .reset

/-- What the rows of the table say of a decode word. -/
def selectRow (t : OpWord) : Option Row := decodeTable.find? (fun r => r.matches t)

/-- The decoder over decode words: total, and it rejects by name the words no row selects (R64, R71). -/
def decode (t : OpWord) : Except DecodeError Instr :=
  match selectRow t with
  | some r => .ok (r.mnemonic.build t)
  | none => if opField t == 0 || opField t == 1 then .error .reservedBits else .error .reservedOp

/-- `T` of a request `Q` under a bank value: `Q` with `T[26:24] <- bank` and `T[27] = 0` for RD and WR; for FRAME and RESET
`T = Q` (R62). -/
def formDecodeWord (bank : Bank) (q : OpWord) : OpWord :=
  if opField q == 0 || opField q == 1 then mkWord (opField q) bank (addrField q) (dataField q) else q

/-- A request under a bank value: refused where R71 reserves the request word, else the decoding of its decode word. -/
def decodeRequest (bank : Bank) (q : OpWord) : Except DecodeError Instr :=
  if (opField q == 0 || opField q == 1) && zeroField q != 0 then .error .reservedBits
  else decode (formDecodeWord bank q)

/-- The decode word of an operation. Bits that the operation ignores are 0 (R61: "write 0"). -/
def encode : Instr → OpWord
  | .rdRam b a => mkWord 0 b a 0
  | .rdBasic b a => mkWord 0 b a 0
  | .rdKernal b a => mkWord 0 b a 0
  | .rdChar b a => mkWord 0 b a 0
  | .rdColor b a => mkWord 0 b a 0
  | .rdSound b a => mkWord 0 b a 0
  | .rdVideo b a => mkWord 0 b a 0
  | .rdIota b a => mkWord 0 b a 0
  | .rdIotb b a => mkWord 0 b a 0
  | .rdUnmapped b a => mkWord 0 b a 0
  | .wrRam b a d => mkWord 1 b a d
  | .wrColor b a d => mkWord 1 b a d
  | .wrSound b a d => mkWord 1 b a d
  | .wrVideo b a d => mkWord 1 b a d
  | .wrIota b a d => mkWord 1 b a d
  | .wrIotb b a d => mkWord 1 b a d
  | .wrUnmapped b a d => mkWord 1 b a d
  | .frame => mkWord 2 0 0 0
  | .reset => mkWord 3 0 0 0

/-- What the decoder reads from a table row's word: the word is a DECODE word `T`, since the table is over `T` (R62, R64;
notes/assumptions/28.md). A word of more than 32 bits, or with a bit above `nbits`, is none of the block's. -/
def decodeTableWord (nbits w : Nat) : Option Instr :=
  if nbits ≤ 32 ∧ w < 2 ^ nbits then
    match decode (BitVec.ofNat 32 w) with
    | .ok i => some i
    | .error _ => none
  else none

/-! The request lines of R74 and the pseudo-operations of R75. -/

/-- `RD $aaaa` -/
def requestRd (a : Addr) : Request := ⟨mkWord 0 0 a 0, false⟩

/-- `WR $aaaa, $vv` -/
def requestWr (a : Addr) (v : Byte) : Request := ⟨mkWord 1 0 a v, false⟩

/-- `FRAME`, or `FRAME cursor` -/
def requestFrame (cursor : Bool) : Request := ⟨mkWord 2 0 0 0, cursor⟩

/-- `RESET` -/
def requestReset : Request := ⟨mkWord 3 0 0 0, false⟩

/-- `BANK n`: `WR $0001, $0n` -/
def pseudoBank (n : Bank) : List Request := [requestWr 0x0001 (0#5 ++ n)]

/-- `POKE $aaaa, $vv` -/
def pseudoPoke (a : Addr) (v : Byte) : List Request := [requestWr a v]

/-- `PEEK $aaaa` -/
def pseudoPeek (a : Addr) : List Request := [requestRd a]

/-- `BGCOL c`: `WR $D021, $0c` -/
def pseudoBgcol (c : Nibble) : List Request := [requestWr 0xD021 (0#4 ++ c)]

/-- `PUTC i, $cc, k`: the character code into the text buffer, then its colour into the colour table. R75 gives it for the cells
of the grid, 0 to `ROWS*COLS-1`; that beyond them it expands all the same, each address modulo 2^16, is the model's DESIGN
CHOICE (notes/assumptions/32.md). -/
def pseudoPutc (c : Cfg) (i : Nat) (code : Byte) (k : Nibble) : List Request :=
  [requestWr (c.screenBase + BitVec.ofNat 16 i) code, requestWr (0xD800 + BitVec.ofNat 16 i) (0#4 ++ k)]

end Sys2Proof
end

