-- ==== Sys2Proof/Machine/State.lean ====
section
/-! DEFINITION. The state of the machine as plain data, the reasons a step stops, and the state after reset. The state
elements are those of spec/10_state.md R19; beside them stand the configuration record (constant, notes/assumptions/1.md)
and the ports of R36 (notes/assumptions/5.md, 7.md, 8.md). -/

namespace Sys2Proof.Machine

/-- A byte store as a list of (index, byte) pairs in one canonical form: indices strictly rising, and no pair whose byte is
what an unlisted index reads as (`Memory.wf`). -/
abbrev Memory := List Host.Cell

/-- The framebuffer: rows from the top, each the pixels of one row from the left, so that `fb[y][x]` is R33's. -/
abbrev Framebuffer := List (List Colour)

/-- What the decoder selected: the ten lines of the output `sel` (R36, R78). -/
inductive Target where
  | ram | basic | kernal | char | color | sound | video | iota | iotb | unmapped
deriving DecidableEq, Repr

/-- The kinds of diagnostic event (spec/60_exceptions.md R122). -/
inductive DiagKind where
  /-- code 1, emitted by `RD.UNMAPPED` -/
  | unhandledHardwareRead
  /-- code 2, emitted by a stub read that logs -/
  | unimplementedRegisterRead
  /-- code 3, emitted by `WR.IOTB` and by `WR.IOTA` at an index that is not live -/
  | unimplementedRegisterWrite
deriving DecidableEq, Repr

/-- The code numbers of R122. -/
def DiagKind.code : DiagKind → Nat
  | .unhandledHardwareRead => 1
  | .unimplementedRegisterRead => 2
  | .unimplementedRegisterWrite => 3

/-- A diagnostic event `(kind, addr, data)`; `data` is 0 for a read (R35, R119). -/
structure Diag where
  kind : DiagKind
  addr : Addr
  data : Byte
deriving DecidableEq, Repr

/-- The block's faults: the whole list is one (R117). -/
inductive FaultCode where
  /-- code 1, raised by `WR.UNMAPPED` (R100) -/
  | unknownHardwareWrite
deriving DecidableEq, Repr

/-- The code numbers of R117. -/
def FaultCode.code : FaultCode → Nat
  | .unknownHardwareWrite => 1

/-- What the fault latch holds when it is set: `(code, addr, data)` (R34, R119). -/
structure FaultRecord where
  code : FaultCode
  addr : Addr
  data : Byte
deriving DecidableEq, Repr

/-- The state of the machine. -/
structure State where
  /-- the parameters of R6; no operation changes them, RESET neither (R136) -/
  cfg : Cfg
  /-- R14: 65536 bytes; the low three bits of entry 1 are bank-select (R20) -/
  ram : Memory
  /-- R15: 1024 cells of 4 bits -/
  colorRam : Vector Nibble 1024
  /-- R16: 4096 bytes, written by every register-path write and read by no operation -/
  shadowIO : Memory
  /-- R29: the bytes of I/O-timer block A, used at live indices only -/
  iota : Vector Byte 16
  /-- R26: the colour code of the background layer -/
  bg0 : Nibble
  /-- R33: no value before the first FRAME -/
  fb : Option Framebuffer
  /-- R34: the fault latch -/
  fault : Option FaultRecord
  /-- R35: the diagnostics log, oldest event first -/
  diag : List Diag
  /-- the model's own: the requests not yet served, oldest first (notes/assumptions/5.md) -/
  requests : List Request
  /-- R36: the input `cursor_visible`, as the request being served brought it -/
  cursorVisible : Bool
  /-- R36: the output `rdata` of the last operation, none when it was no RD -/
  rdata : Option Byte
  /-- R36, R78: the output `sel` of the last operation, none after FRAME and RESET -/
  sel : Option Target
  /-- R36: the output `diag_out` of the last operation -/
  diagOut : Option Diag
deriving DecidableEq, Repr

/-- Reasons for which something stops with a fault. NO STEP ends so: the block's one fault is a latch in State, and
`WR.UNMAPPED` takes it as a next state (R100, R120; notes/assumptions/10.md). Both constructors are safe. -/
inductive Fault where
  /-- raised by `State.readPixel`, the host's read of the framebuffer, before the first FRAME: `fb` holds no value, and
  reading it is "a fault of the claim, not a zero" (R33). Safe. -/
  | framebufferHasNoValue
  /-- raised by `State.readPixel` at a position outside the FB_H rows of FB_W pixels (R33). Safe. -/
  | pixelOutsideFramebuffer
deriving DecidableEq, Repr

/-- Reasons for which the model gives a request no meaning. All are safe: they only leave claims unprovable. -/
inductive Refusal where
  /-- raised by an arm of `exec` whose instruction has no meaning yet -/
  | notModelled (mnemonic : String)
  /-- raised by every operation when the configuration breaks a constraint of R6 -/
  | invalidConfig
  /-- raised by every operation but RESET while the fault latch is set (R121) -/
  | faultLatched
  /-- raised by `step` on a request word with `op` 4 to 15 (R71) -/
  | reservedOp
  /-- raised by `step` on a RD or WR request with nonzero bits 27 to 24 (R71) -/
  | reservedBits
  /-- raised by `step` when no request is pending: the host issues no more, the run has ended (R150) -/
  | noRequest
  /-- raised by `memRead` and `memWrite` with a width other than one byte (R43) -/
  | accessWidth
deriving DecidableEq, Repr

/-- The state of R136 and R38 for a configuration, with no request pending and no output driven. -/
def State.resetOf (c : Cfg) : State where
  cfg := c
  ram := [(1, c.ram1Reset)]
  colorRam := Vector.replicate 1024 c.colorReset
  shadowIO := []
  iota := Vector.replicate 16 0
  bg0 := c.bg0Reset
  fb := none
  fault := none
  diag := []
  requests := []
  cursorVisible := false
  rdata := none
  sel := none
  diagOut := none

/-- The machine right after reset (R38, R136), with the configuration `Config.cfg`. -/
def State.reset : State := State.resetOf Config.cfg

end Sys2Proof.Machine
end

