-- ==== Sys2Proof/Machine/Flags.lean ====
section
/-! DEFINITION. The one status latch of the block (spec/10_state.md R13, R34) and the admission of an operation
(spec/60_exceptions.md R121). The block has no arithmetic flag. -/

namespace Sys2Proof.Machine

/-- The output `fault_out`: the latch is set (R36). -/
def faultOut (s : State) : Bool := s.fault.isSome

/-- A configuration that breaks a constraint gives no operation a meaning (R6, notes/assumptions/12.md). -/
def requireConfig (s after : State) : Host.Outcome State Fault Refusal :=
  if s.cfg.valid then .next after else .refused .invalidConfig

/-- `require fault = none`: the admission of every operation but RESET (R121). An admitted operation takes the machine from
`s` to `after`. -/
def whenAdmitted (s after : State) : Host.Outcome State Fault Refusal :=
  match s.fault with
  | none => requireConfig s after
  | some _ => .refused .faultLatched

end Sys2Proof.Machine
end

