-- ==== Sys2Proof/Machine/Operands.lean ====
section
/-! DEFINITION. Operands and target resolution: from a bus address to a store index (spec/30_encoding.md R68), the data
operand's low half (R69), the stub registers (spec/10_state.md R31), and the choice of the target by priority chain (R65,
R66, R79, R91). The decoder does not use the chains: it uses the table of Decode.lean. They are the spec's other statement
of the same choice (R64, R76), and Machine/Contract.lean builds the bus contracts on them. -/

namespace Sys2Proof.Machine

/-! Store indices (R68): "an unsigned subtraction of the window base, equal to a mask". -/

/-- `addr - 0xA000`, `addr - 0xE000`: `addr[12:0]`. -/
def romIndex (a : Addr) : BitVec 13 := a.extractLsb' 0 13

/-- `addr - 0xD000`: `addr[11:0]`, in `CHAR_ROM` and in `shadowIO`. -/
def windowIndex (a : Addr) : BitVec 12 := a.extractLsb' 0 12

/-- `addr - 0xD800`: `addr[9:0]`, the colour cell, not mirrored (R32). -/
def cellIndex (a : Addr) : BitVec 10 := a.extractLsb' 0 10

/-- `addr & 0x003F`: the video register (R24). -/
def videoIndex (a : Addr) : BitVec 6 := a.extractLsb' 0 6

/-- `addr & 0x001F`: the sound register (R27). -/
def soundIndex (a : Addr) : BitVec 5 := a.extractLsb' 0 5

/-- `addr & 0x000F`: the register of an I/O-timer block (R28, R30). -/
def ioIndex (a : Addr) : BitVec 4 := a.extractLsb' 0 4

/-- `data[3:0]` (R69). -/
def lowNibble (v : Byte) : Nibble := v.extractLsb' 0 4

/-- `zext_8` of a colour cell (R85). -/
def zextNibble (k : Nibble) : Byte := k.zeroExtend 8

/-! Stub registers (R31) and live bytes (R29). -/

/-- `STUB_RD` of a stub. -/
def stubRd : Stub → Byte
  | .fixed v => v
  | .unimplemented => 0

/-- `STUB_LOGS` of a stub. -/
def stubLogs : Stub → Bool
  | .fixed _ => false
  | .unimplemented => true

def videoStub (c : Cfg) (r : BitVec 6) : Stub := c.videoStubs[r.toNat]'(r.isLt)

def soundStub (c : Cfg) (r : BitVec 5) : Stub := c.soundStubs[r.toNat]'(r.isLt)

def iotaStub (c : Cfg) (r : BitVec 4) : Stub := c.iotaStubs[r.toNat]'(r.isLt)

def iotbStub (c : Cfg) (r : BitVec 4) : Stub := c.iotbStubs[r.toNat]'(r.isLt)

/-- `r in IOTA_LIVE`. -/
def iotaIsLive (c : Cfg) (r : BitVec 4) : Bool := c.iotaLive[r.toNat]'(r.isLt)

/-- `PALETTE[k]` (R112). -/
def paletteColour (c : Cfg) (k : Nibble) : Colour := (c.palette[k.toNat]'(k.isLt)).val

/-- Byte `i` of an image. The constraints of `Cfg.valid` and the index widths keep `i` inside the image (R68, R103), so the
other branch is never taken (notes/assumptions/17.md). -/
def imageByte {n : Nat} (image : Vector Byte n) (i : Nat) : Byte :=
  if h : i < n then image[i] else 0

/-! Target resolution. -/

/-- The candidates of a priority chain (R10, R65). -/
inductive Region where
  | ram | basic | kernal | characterRom | registers
deriving DecidableEq, Repr

/-- The address range of a region (R79). -/
def regionHolds (r : Region) (a : Addr) : Bool :=
  match r with
  | .ram => true
  | .basic => decide (0xA000 ≤ a.toNat) && decide (a.toNat ≤ 0xBFFF)
  | .kernal => decide (0xE000 ≤ a.toNat) && decide (a.toNat ≤ 0xFFFF)
  | .characterRom => decide (0xD000 ≤ a.toNat) && decide (a.toNat ≤ 0xDFFF)
  | .registers => decide (0xD000 ≤ a.toNat) && decide (a.toNat ≤ 0xDFFF)

/-- The priority chain of a bank-select value, highest priority first (R65, the table of the source's section 4.1). -/
def chain (bank : Bank) : List Region :=
  match bank.toNat with
  | 0 => [.ram]
  | 1 => [.characterRom, .ram]
  | 2 => [.kernal, .characterRom, .ram]
  | 3 => [.basic, .kernal, .characterRom, .ram]
  | 4 => [.ram]
  | 5 => [.registers, .ram]
  | 6 => [.kernal, .registers, .ram]
  | _ => [.basic, .kernal, .registers, .ram]

/-- The register sub-decode, in the order of R84 and R91. -/
def registerTarget (a : Addr) : Target :=
  if 0xD800 ≤ a.toNat ∧ a.toNat ≤ 0xDBFF then .color
  else if 0xD400 ≤ a.toNat ∧ a.toNat ≤ 0xD7FF then .sound
  else if 0xD000 ≤ a.toNat ∧ a.toNat ≤ 0xD3FF then .video
  else if 0xDC00 ≤ a.toNat ∧ a.toNat ≤ 0xDCFF then .iota
  else if 0xDD00 ≤ a.toNat ∧ a.toNat ≤ 0xDDFF then .iotb
  else .unmapped

/-- What a read of a region goes to (`read_region` of R79). -/
def regionTarget (r : Region) (a : Addr) : Target :=
  match r with
  | .ram => .ram
  | .basic => .basic
  | .kernal => .kernal
  | .characterRom => .char
  | .registers => registerTarget a

/-- The target of a read: the first region of the chain that contains the address, RAM if none does (R79). -/
def readTarget (bank : Bank) (a : Addr) : Target :=
  match (chain bank).find? (fun r => regionHolds r a) with
  | some r => regionTarget r a
  | none => .ram

/-- The target of a write (R91): RAM if `bank[1:0] = 0b00` or the address is outside $D000 to $DFFF, else the register
sub-decode. -/
def writeTarget (bank : Bank) (a : Addr) : Target :=
  if bank.extractLsb' 0 2 = 0 ∨ ¬ (0xD000 ≤ a.toNat ∧ a.toNat ≤ 0xDFFF) then .ram else registerTarget a

/-- The lines of the output `sel` as a one-hot word. DESIGN CHOICE (notes/assumptions/9.md): line 0 is RAM, then in the
order in which R36 lists the targets. -/
def selLines : Option Target → BitVec 10
  | none => 0
  | some .ram => 0x1
  | some .basic => 0x2
  | some .kernal => 0x4
  | some .char => 0x8
  | some .color => 0x10
  | some .sound => 0x20
  | some .video => 0x40
  | some .iota => 0x80
  | some .iotb => 0x100
  | some .unmapped => 0x200

end Sys2Proof.Machine
end

