-- ==== Sys2Proof/Machine/Ops.lean ====
section
/-! DEFINITION. The named operations over memory, state and framebuffer that the meanings share: byte stores, the bank
view, the output ports, the shadow capture, diagnostics, TAKING THE FAULT (`State.raise`) and the way out of it
(`State.restart`), pixel writes, and fetching the next request. -/

namespace Sys2Proof.Machine

/-! Byte stores. -/

/-- What an index that is not listed reads as: 0, the reset contents of `ram` ("RAM zero-initialized", R38) and of
`shadowIO` (R38, decision D8); notes/assumptions/13.md. -/
def unlistedByte : Byte := 0

/-- The byte at an index. -/
def Memory.read : Memory → Nat → Byte
  | [], _ => unlistedByte
  | (k, v) :: rest, a => if k = a then v else Memory.read rest a

/-- The store with one byte written, in canonical form again. -/
def Memory.write : Memory → Nat → Byte → Memory
  | [], a, v => if v = unlistedByte then [] else [(a, v)]
  | (k, w) :: rest, a, v =>
    if a < k then (if v = unlistedByte then (k, w) :: rest else (a, v) :: (k, w) :: rest)
    else if a = k then (if v = unlistedByte then rest else (a, v) :: rest)
    else (k, w) :: Memory.write rest a v

/-- The canonical form from index `lo` on: indices rising, below `size`, no listed byte equal to the unlisted one. -/
def Memory.wfFrom (size : Nat) : Nat → Memory → Bool
  | _, [] => true
  | lo, (k, v) :: rest => decide (lo ≤ k) && decide (k < size) && (v != unlistedByte) && Memory.wfFrom size (k + 1) rest

/-- The canonical form of a store of `size` bytes. -/
def Memory.wf (size : Nat) (m : Memory) : Bool := Memory.wfFrom size 0 m

/-! The stores of the state. -/

/-- `ram[addr]`. -/
def State.ramByte (s : State) (a : Addr) : Byte := Memory.read s.ram a.toNat

/-- `bank`: `ram[1][2:0]`, "observed fresh on every access" (R20). -/
def State.bank (s : State) : Bank := (s.ramByte 1).extractLsb' 0 3

/-- `colorRam[i]`. -/
def State.colorCell (s : State) (i : BitVec 10) : Nibble := s.colorRam[i.toNat]'(i.isLt)

/-- `iota[r]`. -/
def State.iotaByte (s : State) (r : BitVec 4) : Byte := s.iota[r.toNat]'(r.isLt)

/-- `shadowIO[i]`: the debug view `dbg_shadow` (R36, R134). No operation reads it. -/
def State.shadowByte (s : State) (i : BitVec 12) : Byte := Memory.read s.shadowIO i.toNat

/-- `ram[addr] <- v`. -/
def State.storeRam (s : State) (a : Addr) (v : Byte) : State := { s with ram := Memory.write s.ram a.toNat v }

/-- `colorRam[i] <- k`. -/
def State.storeColor (s : State) (i : BitVec 10) (k : Nibble) : State :=
  { s with colorRam := s.colorRam.set i.toNat k i.isLt }

/-- `iota[r] <- v`. -/
def State.storeIota (s : State) (r : BitVec 4) (v : Byte) : State := { s with iota := s.iota.set r.toNat v r.isLt }

/-- `bg0 <- k`. -/
def State.storeBg0 (s : State) (k : Nibble) : State := { s with bg0 := k }

/-- `fb` becomes a framebuffer (R107). -/
def State.storeFb (s : State) (f : Framebuffer) : State := { s with fb := some f }

/-- The shadow capture (R98): `shadowIO[addr - 0xD000] <- data`, with the full address and the full byte. -/
def State.capture (s : State) (a : Addr) (v : Byte) : State :=
  { s with shadowIO := Memory.write s.shadowIO (windowIndex a).toNat v }

/-! The output ports (R36). Each operation drives them anew (notes/assumptions/8.md). -/

/-- A read answers a byte from a target. -/
def State.respond (s : State) (t : Target) (v : Byte) : State :=
  { s with rdata := some v, sel := some t, diagOut := none }

/-- A write selects a target and answers nothing. -/
def State.accept (s : State) (t : Target) : State := { s with rdata := none, sel := some t, diagOut := none }

/-- An operation that is no transaction: no line of `sel` is active (R78). -/
def State.quiet (s : State) : State := { s with rdata := none, sel := none, diagOut := none }

/-- `diag K(info)`: append one event to the log and change nothing else (R122); the event is on `diag_out` too. -/
def State.emit (s : State) (k : DiagKind) (a : Addr) (v : Byte) : State :=
  { s with diag := s.diag ++ [⟨k, a, v⟩], diagOut := some ⟨k, a, v⟩ }

/-- A stub read (R31): the constant `STUB_RD`, and the diagnostic when `STUB_LOGS` says so. -/
def State.respondStub (s : State) (t : Target) (stub : Stub) (a : Addr) : State :=
  if stubLogs stub then (s.respond t (stubRd stub)).emit .unimplementedRegisterRead a 0
  else s.respond t (stubRd stub)

/-- The common part of every register-path write: the capture first (R98), then the target is selected (R91). -/
def State.registerWrite (s : State) (t : Target) (a : Addr) (v : Byte) : State := (s.capture a v).accept t

/-! Faults. -/

/-- TAKING THE FAULT (R120): `fault <- (code, addr, data)`; the operation ends and no other state changes. There is no
vector, no handler, no saved state and no mode change. -/
def State.raise (s : State) (code : FaultCode) (a : Addr) (v : Byte) : State := { s with fault := some ⟨code, a, v⟩ }

/-- THE WAY OUT OF THE FAULT (R125, R136): every state element at its reset value, the configuration kept, the requests
still pending and the input `cursor_visible` untouched (they are the master's, not the block's). -/
def State.restart (s : State) : State :=
  { State.resetOf s.cfg with requests := s.requests, cursorVisible := s.cursorVisible }

/-! The framebuffer. -/

/-- `fb[y][x] <- colour`. A write outside the framebuffer changes nothing: DESIGN CHOICE (notes/assumptions/31.md), since R111
says of such a write only that no operation makes one. -/
def Framebuffer.setPixel (f : Framebuffer) (x y : Nat) (c : Colour) : Framebuffer :=
  f.modify y (fun row => row.set x c)

/-- `fb[y][x]`, if there is such a pixel. -/
def Framebuffer.pixel? (f : Framebuffer) (x y : Nat) : Option Colour :=
  match f[y]? with
  | some row => row[x]?
  | none => none

/-- One pixel write of a drawing loop. -/
structure PixelWrite where
  x : Nat
  y : Nat
  colour : Colour
deriving DecidableEq, Repr

/-- The pixel writes of a drawing loop, made in their order. -/
def Framebuffer.paint (f : Framebuffer) (ws : List PixelWrite) : Framebuffer :=
  ws.foldl (fun g w => Framebuffer.setPixel g w.x w.y w.colour) f

/-- A framebuffer of one colour. -/
def Framebuffer.filled (w h : Nat) (c : Colour) : Framebuffer := List.replicate h (List.replicate w c)

/-- The host's read of a pixel (R33): a fault before the first FRAME. It is no operation of the block. -/
def State.readPixel (s : State) (x y : Nat) : Except Fault Colour :=
  match s.fb with
  | none => .error .framebufferHasNoValue
  | some f =>
    match Framebuffer.pixel? f x y with
    | some c => .ok c
    | none => .error .pixelOutsideFramebuffer

/-! Requests. -/

/-- The next request and the state in which it is served: it is off the list, and its level of `cursor_visible` is on the
input (notes/assumptions/5.md, 7.md). -/
def State.fetch (s : State) : Option (OpWord × State) :=
  match s.requests with
  | [] => none
  | r :: rest => some (r.word, { s with requests := rest, cursorVisible := r.cursorVisible })

/-- The refusal of a word that R71 reserves. -/
def refusalOf : DecodeError → Refusal
  | .reservedOp => .reservedOp
  | .reservedBits => .reservedBits

/-- A table row's word `T` as a request `Q`: for RD and WR the bank bits go back to 0 (R61, R62). -/
def requestOfTableWord (t : OpWord) : OpWord :=
  if opField t == 0 || opField t == 1 then t &&& 0xF8FFFFFF else t

/-- The state in which a request of the word decodes to exactly the table word `t`: for RD and WR, bank-select is `t`'s bank
field, the other bits of `ram[1]` as they are (R20, R62; notes/assumptions/6.md). -/
def State.withBankOf (s : State) (t : OpWord) : State :=
  if opField t == 0 || opField t == 1 then s.storeRam 1 ((s.ramByte 1).extractLsb' 3 5 ++ bankField t) else s

end Sys2Proof.Machine
end

