-- ==== Sys2Proof/Machine/BusRead.lean ====
section
/-! DEFINITION. The ten resolved read operations of spec/40_bus_read.md. None sets the fault latch; each answers one byte
on `rdata` and adds at most one diagnostic. -/

namespace Sys2Proof.Machine

/-- `RD.RAM` (R80): `rdata := ram[addr]`. -/
def execRdRam (addr : Addr) (s : State) : Host.Outcome State Fault Refusal :=
  whenAdmitted s (s.respond .ram (s.ramByte addr))

/-- `RD.BASIC` (R81): `rdata := BASIC_ROM[addr - 0xA000]`. -/
def execRdBasic (addr : Addr) (s : State) : Host.Outcome State Fault Refusal :=
  whenAdmitted s (s.respond .basic (imageByte s.cfg.basicRom (romIndex addr).toNat))

/-- `RD.KERNAL` (R82): `rdata := KERNAL_ROM[addr - 0xE000]`. -/
def execRdKernal (addr : Addr) (s : State) : Host.Outcome State Fault Refusal :=
  whenAdmitted s (s.respond .kernal (imageByte s.cfg.kernalRom (romIndex addr).toNat))

/-- `RD.CHAR` (R83): `rdata := CHAR_ROM[addr - 0xD000]`, the whole window, no diagnostic. -/
def execRdChar (addr : Addr) (s : State) : Host.Outcome State Fault Refusal :=
  whenAdmitted s (s.respond .char (imageByte s.cfg.charRom (windowIndex addr).toNat))

/-- `RD.COLOR` (R85): `rdata := zext_8(colorRam[addr - 0xD800])`; the upper four bits are 0 by the spec's decision D11
(notes/assumptions/21.md). -/
def execRdColor (addr : Addr) (s : State) : Host.Outcome State Fault Refusal :=
  whenAdmitted s (s.respond .color (zextNibble (s.colorCell (cellIndex addr))))

/-- `RD.SOUND` (R86). -/
def execRdSound (addr : Addr) (s : State) : Host.Outcome State Fault Refusal :=
  whenAdmitted s (s.respondStub .sound (soundStub s.cfg (soundIndex addr)) addr)

/-- `RD.VIDEO` (R87): a stub at every index, 0x21 included (R25). -/
def execRdVideo (addr : Addr) (s : State) : Host.Outcome State Fault Refusal :=
  whenAdmitted s (s.respondStub .video (videoStub s.cfg (videoIndex addr)) addr)

/-- `RD.IOTA` (R88): the live byte, or the stub. -/
def execRdIota (addr : Addr) (s : State) : Host.Outcome State Fault Refusal :=
  whenAdmitted s
    (if iotaIsLive s.cfg (ioIndex addr) then s.respond .iota (s.iotaByte (ioIndex addr))
     else s.respondStub .iota (iotaStub s.cfg (ioIndex addr)) addr)

/-- `RD.IOTB` (R89): a stub at every index. -/
def execRdIotb (addr : Addr) (s : State) : Host.Outcome State Fault Refusal :=
  whenAdmitted s (s.respondStub .iotb (iotbStub s.cfg (ioIndex addr)) addr)

/-- `RD.UNMAPPED` (R90): the RAM byte, with `UnhandledHardwareRead`; no fault. -/
def execRdUnmapped (addr : Addr) (s : State) : Host.Outcome State Fault Refusal :=
  whenAdmitted s ((s.respond .unmapped (s.ramByte addr)).emit .unhandledHardwareRead addr 0)

end Sys2Proof.Machine
end

