-- ==== Sys2Proof/Machine/BusWrite.lean ====
section
/-! DEFINITION. The seven resolved write operations of spec/41_bus_write.md. All but `WR.RAM` take the register path: the
shadow capture comes first (R98) and `ram` does not change (R99). -/

namespace Sys2Proof.Machine

/-- `WR.RAM` (R92): `ram[addr] <- data`, nothing else. -/
def execWrRam (addr : Addr) (data : Byte) (s : State) : Host.Outcome State Fault Refusal :=
  whenAdmitted s ((s.accept .ram).storeRam addr data)

/-- `WR.COLOR` (R93): `colorRam[addr - 0xD800] <- data[3:0]`. -/
def execWrColor (addr : Addr) (data : Byte) (s : State) : Host.Outcome State Fault Refusal :=
  whenAdmitted s ((s.registerWrite .color addr data).storeColor (cellIndex addr) (lowNibble data))

/-- `WR.SOUND` (R94): captured, no further effect. -/
def execWrSound (addr : Addr) (data : Byte) (s : State) : Host.Outcome State Fault Refusal :=
  whenAdmitted s (s.registerWrite .sound addr data)

/-- `WR.VIDEO` (R95): register 0x21 takes `data[3:0]` as the background colour, every other index is a stub. -/
def execWrVideo (addr : Addr) (data : Byte) (s : State) : Host.Outcome State Fault Refusal :=
  whenAdmitted s
    (if videoIndex addr = 0x21 then (s.registerWrite .video addr data).storeBg0 (lowNibble data)
     else s.registerWrite .video addr data)

/-- `WR.IOTA` (R96): a live index stores all 8 bits, every other is logged. -/
def execWrIota (addr : Addr) (data : Byte) (s : State) : Host.Outcome State Fault Refusal :=
  whenAdmitted s
    (if iotaIsLive s.cfg (ioIndex addr) then (s.registerWrite .iota addr data).storeIota (ioIndex addr) data
     else (s.registerWrite .iota addr data).emit .unimplementedRegisterWrite addr data)

/-- `WR.IOTB` (R97): logged, no state change but the capture. -/
def execWrIotb (addr : Addr) (data : Byte) (s : State) : Host.Outcome State Fault Refusal :=
  whenAdmitted s ((s.registerWrite .iotb addr data).emit .unimplementedRegisterWrite addr data)

/-- `WR.UNMAPPED` (R100): the byte is captured, then the fault is taken (R120). -/
def execWrUnmapped (addr : Addr) (data : Byte) (s : State) : Host.Outcome State Fault Refusal :=
  whenAdmitted s ((s.registerWrite .unmapped addr data).raise .unknownHardwareWrite addr data)

end Sys2Proof.Machine
end

