-- ==== Sys2Proof/Machine/Compositor.lean ====
section
/-! DEFINITION. The display compositor (spec/42_compositor.md): RENDER with all its arguments (R101 to R106), the cursor
rectangle (R113), and FRAME (R107). A drawing loop is written as the list of pixel writes it makes, in loop order. -/

namespace Sys2Proof.Machine

/-- The seven arguments of RENDER (R101). Tables are indexed by cell number, the glyph ROM by byte. -/
structure RenderArgs where
  videoBuffer : Nat → Byte
  foreground : Option (Nat → Byte)
  background : Option (Nat → Byte)
  glyphRom : Nat → Byte
  palette : Nibble → Colour
  originX : Nat
  originY : Nat

/-- `FG(i)` (R105): through the palette by the low 4 bits, or the default tile colour when no table is supplied. -/
def foregroundColour (c : Cfg) (args : RenderArgs) (i : Nat) : Colour :=
  match args.foreground with
  | some table => args.palette (lowNibble (table i))
  | none => c.defaultTileColour.val

/-- The colour of a clear glyph bit, if one is painted (R104, R106; decision D25, notes/assumptions/25.md). -/
def backgroundColour? (args : RenderArgs) (i : Nat) : Option Colour :=
  match args.background with
  | some table => some (args.palette (lowNibble (table i)))
  | none => none

/-- Row `y` of the glyph of cell `i` (R103): byte `8*g + y` with `g = code + CODEPAGE_OFFSET`, over natural numbers. -/
def glyphRow (c : Cfg) (args : RenderArgs) (i y : Nat) : Byte :=
  args.glyphRom (8 * ((args.videoBuffer i).toNat + c.codepageOffset) + y)

/-- What the body of R104's inner loop writes for pixel `(x, y)` of cell `i`: bit 7 of the row is the leftmost pixel. -/
def renderPixel (c : Cfg) (args : RenderArgs) (i y x : Nat) : Option PixelWrite :=
  let px := args.originX + 8 * (i % c.cols) + x
  let py := args.originY + 8 * (i / c.cols) + y
  if (glyphRow c args i y).getLsbD (7 - x) then some ⟨px, py, foregroundColour c args i⟩
  else match backgroundColour? args i with
    | some k => some ⟨px, py, k⟩
    | none => none

/-- The pixel writes of RENDER, cell by cell, row by row, left to right (R104). Cells beyond the grid are not among them
(R110). -/
def renderWrites (c : Cfg) (args : RenderArgs) : List PixelWrite :=
  (List.range (c.rows * c.cols)).flatMap fun i =>
    (List.range 8).flatMap fun y => (List.range 8).filterMap fun x => renderPixel c args i y x

/-- RENDER (R104): a function on framebuffers, no bus operation (R63). What a pixel write outside the framebuffer does is the
model's choice (`Framebuffer.setPixel`); in FRAME there is none (R111). -/
def render (c : Cfg) (args : RenderArgs) (f : Framebuffer) : Framebuffer := Framebuffer.paint f (renderWrites c args)

/-- The pixel writes of `CURSOR()` (R113): a cell-sized rectangle, or nothing outside the grid. -/
def cursorWrites (s : State) : List PixelWrite :=
  let col := (s.ramByte s.cfg.cursorColAddr).toNat
  let row := (s.ramByte s.cfg.cursorRowAddr).toNat
  let k := paletteColour s.cfg (lowNibble (s.ramByte s.cfg.textColourAddr))
  if col < s.cfg.cols ∧ row < s.cfg.rows then
    (List.range 8).flatMap fun y =>
      (List.range 8).map fun x => ⟨s.cfg.originX + 8 * col + x, s.cfg.originY + 8 * row + y, k⟩
  else []

/-- The sources FRAME gives RENDER (R107, R108): the text buffer straight from `ram`, `colorRam`, no background table,
`CHAR_ROM`, `PALETTE`. A cell's colour code is `colorRam[i]`; the grid has at most 1024 cells (R6). -/
def frameArgs (s : State) : RenderArgs where
  videoBuffer i := Memory.read s.ram (s.cfg.screenBase.toNat + i)
  foreground := some fun i => zextNibble (s.colorCell (BitVec.ofNat 10 i))
  background := none
  glyphRom i := imageByte s.cfg.charRom i
  palette := paletteColour s.cfg
  originX := s.cfg.originX
  originY := s.cfg.originY

/-- The cursor pass of FRAME, on the side of the text layer that `CURSOR_OVER_TEXT` says (R107). -/
def cursorPass (s : State) (onTop : Bool) (f : Framebuffer) : Framebuffer :=
  if s.cursorVisible && (s.cfg.cursorOverText == onTop) then Framebuffer.paint f (cursorWrites s) else f

/-- The framebuffer that FRAME leaves (R107): the background layer over every pixel, then the text layer, with the cursor
under or over it. -/
def composeFrame (s : State) : Framebuffer :=
  cursorPass s true
    (render s.cfg (frameArgs s)
      (cursorPass s false (Framebuffer.filled s.cfg.fbW s.cfg.fbH (paletteColour s.cfg s.bg0))))

/-- `FRAME` (R107): `fb` is composed anew, nothing else changes. -/
def execFrame (s : State) : Host.Outcome State Fault Refusal :=
  whenAdmitted s ((s.quiet).storeFb (composeFrame s))

end Sys2Proof.Machine
end

