-- ==== Sys2Proof/Machine/Reset.lean ====
section
/-! DEFINITION. `RESET` (spec/70_reset_and_hazards.md R136): the only operation admitted while the fault latch is set. -/

namespace Sys2Proof.Machine

/-- `RESET` (R136): admitted in every state, the faulted one included; only a configuration that breaks a constraint of R6 is
refused. -/
def execReset (s : State) : Host.Outcome State Fault Refusal := requireConfig s s.restart

end Sys2Proof.Machine
end

