-- ==== Sys2Proof/Machine/Dispatch.lean ====
section
/-! DEFINITION. The dispatch: one arm per operation. The bank operand has selected the operation and is dropped here
(notes/assumptions/14.md). -/

namespace Sys2Proof.Machine

def exec (i : Instr) (s : State) : Host.Outcome State Fault Refusal :=
  match i with
  | .rdRam _ addr => Sys2Proof.Machine.execRdRam addr s
  | .rdBasic _ addr => Sys2Proof.Machine.execRdBasic addr s
  | .rdKernal _ addr => Sys2Proof.Machine.execRdKernal addr s
  | .rdChar _ addr => Sys2Proof.Machine.execRdChar addr s
  | .rdColor _ addr => Sys2Proof.Machine.execRdColor addr s
  | .rdSound _ addr => Sys2Proof.Machine.execRdSound addr s
  | .rdVideo _ addr => Sys2Proof.Machine.execRdVideo addr s
  | .rdIota _ addr => Sys2Proof.Machine.execRdIota addr s
  | .rdIotb _ addr => Sys2Proof.Machine.execRdIotb addr s
  | .rdUnmapped _ addr => Sys2Proof.Machine.execRdUnmapped addr s
  | .wrRam _ addr data => Sys2Proof.Machine.execWrRam addr data s
  | .wrColor _ addr data => Sys2Proof.Machine.execWrColor addr data s
  | .wrSound _ addr data => Sys2Proof.Machine.execWrSound addr data s
  | .wrVideo _ addr data => Sys2Proof.Machine.execWrVideo addr data s
  | .wrIota _ addr data => Sys2Proof.Machine.execWrIota addr data s
  | .wrIotb _ addr data => Sys2Proof.Machine.execWrIotb addr data s
  | .wrUnmapped _ addr data => Sys2Proof.Machine.execWrUnmapped addr data s
  | .frame => Sys2Proof.Machine.execFrame s
  | .reset => Sys2Proof.Machine.execReset s

end Sys2Proof.Machine
end

