-- ==== Sys2Proof/Machine/Step.lean ====
section
/-! DEFINITION. One step: the next request is decoded under the bank-select value of this moment (R20, R62) and its
operation runs, atomically (R45). -/

namespace Sys2Proof.Machine

/-- One operation, or a refusal: no request pending (R150), or a word that R71 reserves. -/
def step (s : State) : Host.Outcome State Fault Refusal :=
  match s.fetch with
  | none => .refused .noRequest
  | some (word, s') =>
    match decodeRequest s'.bank word with
    | .error e => .refused (refusalOf e)
    | .ok i => exec i s'

/-- `s` with the table word `w` as its next request, under the bank value that `w` holds, so that the next step runs exactly
that operation (notes/assumptions/5.md, 6.md, 28.md). -/
def State.withFetchWord (s : State) (nbits w : Nat) : State :=
  let t : OpWord := BitVec.ofNat 32 (w % 2 ^ nbits)
  { s.withBankOf t with requests := ⟨requestOfTableWord t, s.cursorVisible⟩ :: s.requests }

end Sys2Proof.Machine
end

