-- ==== Sys2Proof/Machine/Contract.lean ====
section
/-! DEFINITION. The two bus contracts as the spec writes them: `RD` walks the priority chain of the bank (R79, R84), `WR`
tests the enable predicate and sub-decodes (R91), and the primitives `MemRead`, `MemWrite` of R9 and R43. `step` does not
call them: it decodes by the table. Statements say that the two agree (R64). -/

namespace Sys2Proof.Machine

/-- `RD(addr)` (R79). -/
def busRead (addr : Addr) (s : State) : Host.Outcome State Fault Refusal :=
  match readTarget s.bank addr with
  | .ram => execRdRam addr s
  | .basic => execRdBasic addr s
  | .kernal => execRdKernal addr s
  | .char => execRdChar addr s
  | .color => execRdColor addr s
  | .sound => execRdSound addr s
  | .video => execRdVideo addr s
  | .iota => execRdIota addr s
  | .iotb => execRdIotb addr s
  | .unmapped => execRdUnmapped addr s

/-- `WR(addr, data)` (R91). The resolution never answers a ROM: "writes never reach a ROM" (R63); the three ROM lines of the
match stand for RAM, as R91's first branch does. -/
def busWrite (addr : Addr) (data : Byte) (s : State) : Host.Outcome State Fault Refusal :=
  match writeTarget s.bank addr with
  | .ram | .basic | .kernal | .char => execWrRam addr data s
  | .color => execWrColor addr data s
  | .sound => execWrSound addr data s
  | .video => execWrVideo addr data s
  | .iota => execWrIota addr data s
  | .iotb => execWrIotb addr data s
  | .unmapped => execWrUnmapped addr data s

/-- `MemRead(addr, n)`: defined for `n = 1` only, refused otherwise (R43, decision D33; notes/assumptions/29.md). -/
def memRead (addr : Addr) (n : Nat) (s : State) : Host.Outcome State Fault Refusal :=
  if n = 1 then busRead addr s else .refused .accessWidth

/-- `MemWrite(addr, n, v)`: defined for `n = 1` only, refused otherwise (R43). -/
def memWrite (addr : Addr) (n : Nat) (v : Byte) (s : State) : Host.Outcome State Fault Refusal :=
  if n = 1 then busWrite addr v s else .refused .accessWidth

end Sys2Proof.Machine
end

