-- ==== Sys2Proof/Safety.lean ====
section
/-! DEFINITION. The terms in which claims speak: the launch premises of spec/70_reset_and_hazards.md R151, the invariant of
the machine, what a pixel of a composed frame is (spec/42_compositor.md R107), and what a read returns after a write
(spec/20_memory.md R59). Nothing here is called by the machine. -/

namespace Sys2Proof.Machine

/-! Launch premises (R151). -/

/-- `NoFault`: the latch is clear. -/
def State.NoFault (s : State) : Prop := s.fault = none

/-- `CfgValid`: the constraints of R6. -/
def State.CfgValid (s : State) : Prop := s.cfg.valid = true

/-- `BankIs n`. -/
def State.BankIs (s : State) (n : Bank) : Prop := s.bank = n

/-- `RegistersWritable`: `ram[1][1:0] != 0`. -/
def State.RegistersWritable (s : State) : Prop := Bank.registersWritable s.bank = true

/-- An operation is admitted: `CfgValid` and `NoFault` (R6, R121). -/
def State.Admits (s : State) : Prop := s.CfgValid ∧ s.NoFault

/-! What an operation leaves unchanged. -/

/-- Nothing changed but the output ports (R36): every state element of R19, the configuration and the inputs are as before. -/
def State.SameButOutputs (s t : State) : Prop :=
  t = { s with rdata := t.rdata, sel := t.sel, diagOut := t.diagOut }

/-- The log grew by exactly one event, of this kind and at this address (R122). -/
def State.Logged (s t : State) (k : DiagKind) (a : Addr) : Prop :=
  ∃ e : Diag, t.diag = s.diag ++ [e] ∧ e.kind = k ∧ e.addr = a

/-- What a stub read does to the log: one event when the stub logs, nothing otherwise (R31). -/
def State.LoggedStubRead (s t : State) (stub : Stub) (a : Addr) : Prop :=
  if stubLogs stub = true then s.Logged t .unimplementedRegisterRead a else t.diag = s.diag

/-- `shadowIO[addr - 0xD000]` holds the byte, every other entry is as before (R98). -/
def State.Captured (s t : State) (a : Addr) (v : Byte) : Prop :=
  ∀ i : BitVec 12, t.shadowByte i = if i.toNat + 0xD000 = a.toNat then v else s.shadowByte i

/-! Requests. -/

/-- The head request, in the state in which it is served: it is off the list and its `cursor_visible` is on the input. -/
def State.served (s : State) (r : Request) (rest : List Request) : State :=
  { s with requests := rest, cursorVisible := r.cursorVisible }

/-- The head request is `RD a` (R74); the data byte is ignored (R61). -/
def State.RequestsRead (s : State) (a : Addr) (rest : List Request) : Prop :=
  ∃ (d : Byte) (cv : Bool), s.requests = ⟨mkWord 0 0 a d, cv⟩ :: rest

/-- The head request is `WR a, v` (R74). -/
def State.RequestsWrite (s : State) (a : Addr) (v : Byte) (rest : List Request) : Prop :=
  ∃ cv : Bool, s.requests = ⟨mkWord 1 0 a v, cv⟩ :: rest

/-- The resolved read of a target (R63, R79). -/
def readInstr (t : Target) (b : Bank) (a : Addr) : Instr :=
  match t with
  | .ram => .rdRam b a
  | .basic => .rdBasic b a
  | .kernal => .rdKernal b a
  | .char => .rdChar b a
  | .color => .rdColor b a
  | .sound => .rdSound b a
  | .video => .rdVideo b a
  | .iota => .rdIota b a
  | .iotb => .rdIotb b a
  | .unmapped => .rdUnmapped b a

/-- The resolved write of a target (R63, R91); there is none of a ROM, and `writeTarget` never answers one. -/
def writeInstr (t : Target) (b : Bank) (a : Addr) (v : Byte) : Instr :=
  match t with
  | .ram | .basic | .kernal | .char => .wrRam b a v
  | .color => .wrColor b a v
  | .sound => .wrSound b a v
  | .video => .wrVideo b a v
  | .iota => .wrIota b a v
  | .iotb => .wrIotb b a v
  | .unmapped => .wrUnmapped b a v

/-- The **Encoding** clause of an operation's rule: among the decode words of its direction, those that decode to it are
exactly the ones whose operands are where the clause puts them (`Instr.wf`). -/
def SelectedExactlyWhenWf (op : BitVec 4) (build : Bank → Addr → Byte → Instr) : Prop :=
  ∀ (b : Bank) (a : Addr) (d : Byte), decode (mkWord op b a d) = .ok (build b a d) ↔ (build b a d).wf = true

/-- The resolved reads of R63. -/
def IsReadOperation : Instr → Prop
  | .rdRam _ _ | .rdBasic _ _ | .rdKernal _ _ | .rdChar _ _ | .rdColor _ _ => True
  | .rdSound _ _ | .rdVideo _ _ | .rdIota _ _ | .rdIotb _ _ | .rdUnmapped _ _ => True
  | .wrRam _ _ _ | .wrColor _ _ _ | .wrSound _ _ _ | .wrVideo _ _ _ => False
  | .wrIota _ _ _ | .wrIotb _ _ _ | .wrUnmapped _ _ _ => False
  | .frame | .reset => False

/-- Two states that differ in the shadow buffer and the diagnostics at most (R16, R35). -/
def State.SameButLogs (s t : State) : Prop :=
  t = { s with shadowIO := t.shadowIO, diag := t.diag, diagOut := t.diagOut }

/-- Two outcomes that agree but for the shadow buffer and the diagnostics. -/
def outcomesSameButLogs : Host.Outcome State Fault Refusal → Host.Outcome State Fault Refusal → Prop
  | .next s, .next t => s.SameButLogs t
  | .fault x, .fault y => x = y
  | .refused x, .refused y => x = y
  | _, _ => False

/-- Two states that agree in all that FRAME reads (R33, R108, R113): the configuration, the colour table, `bg0`, the cursor
input, the text buffer's cells and the three cursor cells. -/
def State.SameDisplay (s t : State) : Prop :=
  t.cfg = s.cfg ∧ t.colorRam = s.colorRam ∧ t.bg0 = s.bg0 ∧ t.cursorVisible = s.cursorVisible ∧
  (∀ i, i < s.cfg.rows * s.cfg.cols →
    Memory.read t.ram (s.cfg.screenBase.toNat + i) = Memory.read s.ram (s.cfg.screenBase.toNat + i)) ∧
  t.ramByte s.cfg.cursorColAddr = s.ramByte s.cfg.cursorColAddr ∧
  t.ramByte s.cfg.cursorRowAddr = s.ramByte s.cfg.cursorRowAddr ∧
  t.ramByte s.cfg.textColourAddr = s.ramByte s.cfg.textColourAddr

/-! The invariant. -/

/-- A diagnostic event of a kind at an address that can emit it (R118, R119). -/
def Diag.Legal (e : Diag) : Prop :=
  match e.kind with
  | .unhandledHardwareRead => 0xDE00 ≤ e.addr.toNat ∧ e.addr.toNat ≤ 0xDFFF ∧ e.data = 0
  | .unimplementedRegisterRead =>
    ((0xD000 ≤ e.addr.toNat ∧ e.addr.toNat ≤ 0xD7FF) ∨ (0xDC00 ≤ e.addr.toNat ∧ e.addr.toNat ≤ 0xDDFF)) ∧ e.data = 0
  | .unimplementedRegisterWrite => 0xDC00 ≤ e.addr.toNat ∧ e.addr.toNat ≤ 0xDDFF

/-- The framebuffer has FB_H rows of FB_W pixels (R33). -/
def Framebuffer.Shaped (w h : Nat) (f : Framebuffer) : Prop := f.length = h ∧ ∀ row ∈ f, row.length = w

/-- Every pixel is a value of the pixel type (R33, decision D27). -/
def Framebuffer.Coloured (n : Nat) (f : Framebuffer) : Prop := ∀ row ∈ f, ∀ k ∈ row, k < n

/-- What every step keeps. -/
structure State.Inv (s : State) : Prop where
  /-- `ram` is in canonical form, inside 64K (R14) -/
  ramWf : Memory.wf 65536 s.ram = true
  /-- `shadowIO` is in canonical form, inside 4K (R16) -/
  shadowWf : Memory.wf 4096 s.shadowIO = true
  /-- `iota` is used at live indices only (R19) -/
  deadIota : ∀ r : BitVec 4, iotaIsLive s.cfg r = false → s.iotaByte r = 0
  /-- R33 -/
  fbShaped : ∀ f, s.fb = some f → Framebuffer.Shaped s.cfg.fbW s.cfg.fbH f
  /-- R33: the pixels are values of the pixel type -/
  fbColoured : ∀ f, s.fb = some f → Framebuffer.Coloured s.cfg.colourCount f
  /-- a latched fault is a register-path write of $DE00 to $DFFF (R117) whose byte the shadow buffer holds (R119) -/
  faultLegal : ∀ r, s.fault = some r → 0xDE00 ≤ r.addr.toNat ∧ r.addr.toNat ≤ 0xDFFF ∧
    Bank.registersWritable s.bank = true ∧ s.shadowByte (windowIndex r.addr) = r.data
  /-- every logged event is one that its operation emits (R118) -/
  diagLegal : ∀ e ∈ s.diag, Diag.Legal e
  /-- the event on `diag_out` is the newest of the log (R36) -/
  diagOutLogged : ∀ e, s.diagOut = some e → s.diag.getLast? = some e
  /-- never a fault and a diagnostic from one transaction (R123) -/
  faultOrDiag : s.fault.isSome = true → s.diagOut = none

/-! What a pixel of a composed frame is, by the position of the pixel (R102, R107, R113). -/

/-- The cell of the grid that a destination pixel belongs to (R102), none outside the grid. -/
def cellOfPixel (c : Cfg) (px py : Nat) : Option Nat :=
  if c.originX ≤ px ∧ px < c.originX + 8 * c.cols ∧ c.originY ≤ py ∧ py < c.originY + 8 * c.rows then
    some ((py - c.originY) / 8 * c.cols + (px - c.originX) / 8)
  else none

/-- The colour the text layer gives a pixel: none where it is transparent (R107). -/
def textPixel? (s : State) (px py : Nat) : Option Colour :=
  match cellOfPixel s.cfg px py with
  | none => none
  | some i =>
    let code := (Memory.read s.ram (s.cfg.screenBase.toNat + i)).toNat
    let bits := imageByte s.cfg.charRom (8 * (code + s.cfg.codepageOffset) + (py - s.cfg.originY) % 8)
    if bits.getLsbD (7 - (px - s.cfg.originX) % 8) then some (paletteColour s.cfg (s.colorCell (BitVec.ofNat 10 i)))
    else none

/-- The colour the cursor gives a pixel (R113): none where it does not cover it. -/
def cursorPixel? (s : State) (px py : Nat) : Option Colour :=
  let col := (s.ramByte s.cfg.cursorColAddr).toNat
  let row := (s.ramByte s.cfg.cursorRowAddr).toNat
  if s.cursorVisible = true ∧ cellOfPixel s.cfg px py = some (row * s.cfg.cols + col) ∧ col < s.cfg.cols ∧ row < s.cfg.rows
  then some (paletteColour s.cfg (lowNibble (s.ramByte s.cfg.textColourAddr)))
  else none

/-- The colour of a pixel of the composed frame: cursor and text in the order of `CURSOR_OVER_TEXT`, over the background
layer `PALETTE[bg0]` (R107, R109). -/
def framePixel (s : State) (px py : Nat) : Colour :=
  let layers :=
    if s.cfg.cursorOverText then (cursorPixel? s px py).or (textPixel? s px py)
    else (textPixel? s px py).or (cursorPixel? s px py)
  layers.getD (paletteColour s.cfg s.bg0)

/-! Read after write (R59). -/

/-- What `RD a` returns after `WR a, v` under bank `b`, by R59's table; none where the write faults. -/
def readAfterWrite (c : Cfg) (b : Bank) (a : Addr) (v : Byte) : Option Byte :=
  if 0xA000 ≤ a.toNat ∧ a.toNat ≤ 0xBFFF then
    (if b = 3 ∨ b = 7 then some (imageByte c.basicRom (a.toNat - 0xA000)) else some v)
  else if 0xE000 ≤ a.toNat then
    (if b = 2 ∨ b = 3 ∨ b = 6 ∨ b = 7 then some (imageByte c.kernalRom (a.toNat - 0xE000)) else some v)
  else if 0xD000 ≤ a.toNat ∧ a.toNat ≤ 0xDFFF then
    (if b = 0 ∨ b = 4 then some v
     else if 0xDE00 ≤ a.toNat then none
     else if b = 1 ∨ b = 2 ∨ b = 3 then some (imageByte c.charRom (a.toNat - 0xD000))
     else if a.toNat ≤ 0xD3FF then some (stubRd (videoStub c (videoIndex a)))
     else if a.toNat ≤ 0xD7FF then some (stubRd (soundStub c (soundIndex a)))
     else if a.toNat ≤ 0xDBFF then some (zextNibble (lowNibble v))
     else if a.toNat ≤ 0xDCFF then
       (if iotaIsLive c (ioIndex a) then some v else some (stubRd (iotaStub c (ioIndex a))))
     else some (stubRd (iotbStub c (ioIndex a))))
  else some v

end Sys2Proof.Machine
end

