-- ==== Sys2Proof/Certificates/Slice0/Obligations.lean ====
section
/-! DEFINITION. The statements for the provers. Each says in its docstring which rules of spec/ it formalises. A statement
that rests on a decision of the spec (92_eei_decisions.md) or on a choice of the model names it. -/

open Sys2Proof Sys2Proof.Machine

/-! ## Encoding and decoding -/

/-- The worked decodes of spec/30_encoding.md R77, and one word of each family that R77 leaves out, written out from the
tables of R65 and R67. -/
def Obligations.WorkedDecodesOfTheTable : Prop :=
  decode 0x07A00000 = .ok (.rdBasic 7 0xA000) ∧
  decode 0x06A00000 = .ok (.rdRam 6 0xA000) ∧
  decode 0x07FFFC00 = .ok (.rdKernal 7 0xFFFC) ∧
  decode 0x03D02100 = .ok (.rdChar 3 0xD021) ∧
  decode 0x07D02100 = .ok (.rdVideo 7 0xD021) ∧
  decode 0x17D02106 = .ok (.wrVideo 7 0xD021 0x06) ∧
  decode 0x14D02106 = .ok (.wrRam 4 0xD021 0x06) ∧
  decode 0x12D02106 = .ok (.wrVideo 2 0xD021 0x06) ∧
  decode 0x17DE0001 = .ok (.wrUnmapped 7 0xDE00 0x01) ∧
  decode 0x17000105 = .ok (.wrRam 7 0x0001 0x05) ∧
  decode 0x06DC0F00 = .ok (.rdIota 6 0xDC0F) ∧
  decode 0x15D827FF = .ok (.wrColor 5 0xD827 0xFF) ∧
  decode 0x20000000 = .ok .frame ∧ decode 0x30000000 = .ok .reset

/-- Decode and encode agree: for every well-formed operation, at every value of every operand, the decoding of its word is
the operation (R61, R62, R64 to R67). -/
def Obligations.EncodedOperationDecodesBack : Prop :=
  ∀ i : Instr, i.wf = true → decode (encode i) = .ok i

/-- The other direction: whatever word decodes is the word of a well-formed operation, but for the bits the operation ignores
(R61: `data` of a read, the 28 low bits of FRAME and RESET). -/
def Obligations.DecodedWordIsItsOperationsWord : Prop :=
  ∀ (t : OpWord) (i : Instr), decode t = .ok i →
    i.wf = true ∧
    encode i = t &&& (if opField t = 0 then 0xFFFFFF00 else if opField t = 1 then 0xFFFFFFFF else 0xF0000000)

/-- R64: the rows of the table are mutually exclusive, and for `op` 0 and 1 with `T[27] = 0` complete. -/
def Obligations.TableRowsAreExclusiveAndComplete : Prop :=
  (∀ (t : OpWord) (r r' : Row), r ∈ decodeTable → r' ∈ decodeTable → r.matches t = true → r'.matches t = true → r = r') ∧
  (∀ t : OpWord, (opField t = 0 ∨ opField t = 1) → t.getLsbD 27 = false → ∃ r ∈ decodeTable, r.matches t = true)

/-- R65, R66: what the table decodes a read to is what the priority chain of the bank says: "the first region in the chain
whose address range contains `address` is authoritative; if none match, RAM is returned as the guaranteed fallback", and in
REGISTERS the sub-decode. -/
def Obligations.TableDecodesThePriorityChains : Prop :=
  ∀ (b : Bank) (a : Addr) (d : Byte), decode (mkWord 0 b a d) = .ok (readInstr (readTarget b a) b a)

/-- R67, R66: what the table decodes a write to is what the write rule says. -/
def Obligations.TableDecodesTheWriteRule : Prop :=
  ∀ (b : Bank) (a : Addr) (d : Byte), decode (mkWord 1 b a d) = .ok (writeInstr (writeTarget b a) b a d)

/-- R48, the closed form of the address map, for reads and for the write path. -/
def Obligations.AddressMapClosedForm : Prop :=
  ∀ (b : Bank) (a : Addr),
    (readTarget b a = .basic ↔ b.extractLsb' 0 2 = 0b11#2 ∧ a.extractLsb' 13 3 = 0b101#3) ∧
    (readTarget b a = .kernal ↔ b.getLsbD 1 = true ∧ a.extractLsb' 13 3 = 0b111#3) ∧
    (readTarget b a = .char ↔ b.getLsbD 2 = false ∧ b.extractLsb' 0 2 ≠ 0 ∧ a.extractLsb' 12 4 = 0b1101#4) ∧
    ((readTarget b a ≠ .ram ∧ readTarget b a ≠ .basic ∧ readTarget b a ≠ .kernal ∧ readTarget b a ≠ .char) ↔
      b.getLsbD 2 = true ∧ b.extractLsb' 0 2 ≠ 0 ∧ a.extractLsb' 12 4 = 0b1101#4) ∧
    (writeTarget b a ≠ .ram ↔ b.extractLsb' 0 2 ≠ 0 ∧ a.extractLsb' 12 4 = 0b1101#4)

/-- R71 (the spec's decision D5): request words with `op` 4 to 15, and RD or WR words with a nonzero bit in 27 to 24, are
refused, whatever the state. -/
def Obligations.ReservedRequestsAreRefused : Prop :=
  ∀ (s : State) (r : Request) (rest : List Request), s.requests = r :: rest →
    (4 ≤ (opField r.word).toNat → step s = .refused .reservedOp) ∧
    ((opField r.word = 0 ∨ opField r.word = 1) → zeroField r.word ≠ 0 → step s = .refused .reservedBits)

/-! ## One step -/

/-- A step runs the decoded operation: when the head request decodes, under the bank-select value of this moment, to `i`, the
step is `exec i` in the state with the request off the list and its `cursor_visible` on the input. -/
def Obligations.StepRunsTheDecodedOperation : Prop :=
  ∀ (s : State) (r : Request) (rest : List Request) (i : Instr),
    s.requests = r :: rest → decodeRequest s.bank r.word = .ok i → step s = exec i (s.served r rest)

/-- The host's interface (the model's own, notes/assumptions/6.md and 28.md): for a table word that decodes to `i`, the next
step of `withFetchWord` is `exec i`, in the state whose bank-select is the word's for RD and WR, and unchanged otherwise;
every other RAM cell and the high five bits of `ram[1]` are as they were. -/
def Obligations.FetchedTableWordRunsNext : Prop :=
  ∀ (s : State) (w : Nat) (i : Instr), Memory.wf 65536 s.ram = true → decodeTableWord 32 w = some i →
    ∃ s' : State, step (s.withFetchWord 32 w) = exec i s' ∧ s' = { s with ram := s'.ram } ∧
      ((opField (BitVec.ofNat 32 w) = 0 ∨ opField (BitVec.ofNat 32 w) = 1) →
        s'.bank = bankField (BitVec.ofNat 32 w)) ∧
      (∀ a : Addr, a ≠ 1 → s'.ramByte a = s.ramByte a) ∧
      (s'.ramByte 1).extractLsb' 3 5 = (s.ramByte 1).extractLsb' 3 5 ∧
      ((i = .frame ∨ i = .reset) → s' = s)

/-- R79 with R84: a RD request is the read contract, the walk down the priority chain of the bank at that moment, in every
state (where the contract refuses, so does the step). -/
def Obligations.ReadRequestIsTheReadContract : Prop :=
  ∀ (s : State) (r : Request) (rest : List Request) (a : Addr) (d : Byte),
    s.requests = r :: rest → r.word = mkWord 0 0 a d → step s = busRead a (s.served r rest)

/-- R91: a WR request is the write contract, in every state. -/
def Obligations.WriteRequestIsTheWriteContract : Prop :=
  ∀ (s : State) (r : Request) (rest : List Request) (a : Addr) (v : Byte),
    s.requests = r :: rest → r.word = mkWord 1 0 a v → step s = busWrite a v (s.served r rest)

/-- R61, R71 (decision D5): a request with `op` 2 is FRAME and one with `op` 3 is RESET, whatever its 28 low bits. -/
def Obligations.FrameAndResetIgnoreTheLowBits : Prop :=
  ∀ (s : State) (r : Request) (rest : List Request), s.requests = r :: rest →
    (opField r.word = 2 → step s = exec .frame (s.served r rest)) ∧
    (opField r.word = 3 → step s = exec .reset (s.served r rest))

/-- Progress: with a valid configuration and no fault latched, every request that R71 does not reserve is served: the step
answers a next state, with the request off the list. -/
def Obligations.EveryAdmittedRequestIsServed : Prop :=
  ∀ (s : State) (r : Request) (rest : List Request), s.Admits → s.requests = r :: rest →
    (opField r.word).toNat < 4 → ((opField r.word).toNat < 2 → zeroField r.word = 0) →
    ∃ t, step s = .next t ∧ t.requests = rest

/-! ## Reads -/

/-- R80: RD.RAM answers the RAM cell, with no diagnostic, and changes nothing. -/
def Obligations.ReadRamAnswersTheCell : Prop :=
  SelectedExactlyWhenWf 0 (fun b a _ => .rdRam b a) ∧
  (∀ (s : State) (b : Bank) (a : Addr), s.Admits → (Instr.rdRam b a).wf = true →
     ∃ t, exec (.rdRam b a) s = .next t ∧ t.rdata = some (Memory.read s.ram a.toNat) ∧ s.SameButOutputs t)

/-- R81, R82, R83: RD.BASIC, RD.KERNAL and RD.CHAR answer the image byte at the address less the window's base, which lies
inside the image, with no diagnostic, and change nothing. -/
def Obligations.RomReadsAnswerTheImageByte : Prop :=
  SelectedExactlyWhenWf 0 (fun b a _ => .rdBasic b a) ∧
  SelectedExactlyWhenWf 0 (fun b a _ => .rdKernal b a) ∧
  SelectedExactlyWhenWf 0 (fun b a _ => .rdChar b a) ∧
  (∀ (s : State) (b : Bank) (a : Addr), s.Admits →
     ((Instr.rdBasic b a).wf = true → ∃ h : a.toNat - 0xA000 < 8192,
       ∃ t, exec (.rdBasic b a) s = .next t ∧ t.rdata = some (s.cfg.basicRom[a.toNat - 0xA000]) ∧ s.SameButOutputs t) ∧
     ((Instr.rdKernal b a).wf = true → ∃ h : a.toNat - 0xE000 < 8192,
       ∃ t, exec (.rdKernal b a) s = .next t ∧ t.rdata = some (s.cfg.kernalRom[a.toNat - 0xE000]) ∧ s.SameButOutputs t) ∧
     ((Instr.rdChar b a).wf = true → ∃ h : a.toNat - 0xD000 < 4096,
       ∃ t, exec (.rdChar b a) s = .next t ∧ t.rdata = some (s.cfg.charRom[a.toNat - 0xD000]) ∧ s.SameButOutputs t))

/-- RD.COLOR answers the cell at `addr - 0xD800`, zero-extended. That the upper four bits are 0 is the spec's decision D11
(notes/assumptions/21.md). -/
def Obligations.ReadColorAnswersTheCellZeroExtended : Prop :=
  SelectedExactlyWhenWf 0 (fun b a _ => .rdColor b a) ∧
  (∀ (s : State) (b : Bank) (a : Addr), s.Admits → (Instr.rdColor b a).wf = true →
     ∃ h : a.toNat - 0xD800 < 1024, ∃ t v, exec (.rdColor b a) s = .next t ∧ t.rdata = some v ∧
       v.toNat = (s.colorRam[a.toNat - 0xD800]).toNat ∧ s.SameButOutputs t)

/-- R86, R87, R89: reads of the sound, the video and the I/O-timer B block answer the constant of the stub at `addr & 0x1F`,
`addr & 0x3F`, `addr & 0x0F`, log one `UnimplementedRegisterRead` iff the stub logs, and change nothing else. -/
def Obligations.StubReadsAnswerTheirConstant : Prop :=
  SelectedExactlyWhenWf 0 (fun b a _ => .rdSound b a) ∧
  SelectedExactlyWhenWf 0 (fun b a _ => .rdVideo b a) ∧
  SelectedExactlyWhenWf 0 (fun b a _ => .rdIotb b a) ∧
  (∀ (s : State) (b : Bank) (a : Addr), s.Admits →
     ((Instr.rdSound b a).wf = true → ∃ h : a.toNat % 0x20 < 32,
       ∃ t, exec (.rdSound b a) s = .next t ∧ t.rdata = some (stubRd (s.cfg.soundStubs[a.toNat % 0x20])) ∧
         s.LoggedStubRead t (s.cfg.soundStubs[a.toNat % 0x20]) a ∧ s.SameButOutputs { t with diag := s.diag }) ∧
     ((Instr.rdVideo b a).wf = true → ∃ h : a.toNat % 0x40 < 64,
       ∃ t, exec (.rdVideo b a) s = .next t ∧ t.rdata = some (stubRd (s.cfg.videoStubs[a.toNat % 0x40])) ∧
         s.LoggedStubRead t (s.cfg.videoStubs[a.toNat % 0x40]) a ∧ s.SameButOutputs { t with diag := s.diag }) ∧
     ((Instr.rdIotb b a).wf = true → ∃ h : a.toNat % 0x10 < 16,
       ∃ t, exec (.rdIotb b a) s = .next t ∧ t.rdata = some (stubRd (s.cfg.iotbStubs[a.toNat % 0x10])) ∧
         s.LoggedStubRead t (s.cfg.iotbStubs[a.toNat % 0x10]) a ∧ s.SameButOutputs { t with diag := s.diag }))

/-- R88: RD.IOTA at a live index `addr & 0x0F` answers all 8 bits of the live byte and logs nothing; at every other index it
answers the stub. Nothing else changes. -/
def Obligations.ReadIotaAnswersTheLiveByteOrTheStub : Prop :=
  SelectedExactlyWhenWf 0 (fun b a _ => .rdIota b a) ∧
  (∀ (s : State) (b : Bank) (a : Addr), s.Admits → (Instr.rdIota b a).wf = true →
     ∃ h : a.toNat % 0x10 < 16,
       (s.cfg.iotaLive[a.toNat % 0x10] = true →
         ∃ t, exec (.rdIota b a) s = .next t ∧ t.rdata = some (s.iota[a.toNat % 0x10]) ∧ s.SameButOutputs t) ∧
       (s.cfg.iotaLive[a.toNat % 0x10] = false →
         ∃ t, exec (.rdIota b a) s = .next t ∧ t.rdata = some (stubRd (s.cfg.iotaStubs[a.toNat % 0x10])) ∧
           s.LoggedStubRead t (s.cfg.iotaStubs[a.toNat % 0x10]) a ∧ s.SameButOutputs { t with diag := s.diag }))

/-- R90: RD.UNMAPPED answers the raw RAM content at the address and logs one `UnhandledHardwareRead`; no fault, no other
change. -/
def Obligations.ReadUnmappedAnswersRamAndLogs : Prop :=
  SelectedExactlyWhenWf 0 (fun b a _ => .rdUnmapped b a) ∧
  (∀ (s : State) (b : Bank) (a : Addr), s.Admits → (Instr.rdUnmapped b a).wf = true →
     ∃ t, exec (.rdUnmapped b a) s = .next t ∧ t.rdata = some (Memory.read s.ram a.toNat) ∧
       s.Logged t .unhandledHardwareRead a ∧ s.SameButOutputs { t with diag := s.diag })

/-- R46: no read changes `ram`, `colorRam`, `shadowIO`, `iota`, `bg0`, `fb` or `fault` (nor anything but the log and the
outputs), and the same read repeated answers the same byte. -/
def Obligations.ReadsHaveNoSideEffect : Prop :=
  ∀ (s t : State) (i : Instr), IsReadOperation i → exec i s = .next t →
    s.SameButOutputs { t with diag := s.diag } ∧ (t.diag = s.diag ∨ ∃ e, t.diag = s.diag ++ [e]) ∧
    t.rdata.isSome = true ∧ ∃ u, exec i t = .next u ∧ u.rdata = t.rdata

/-! ## Writes -/

/-- R92: WR.RAM stores exactly the byte at the address; every other RAM byte and everything else (`shadowIO`, `colorRam`,
`iota`, `bg0`, the log, the latch) is unchanged. The premise is the canonical form of `ram`, which every step keeps. -/
def Obligations.WriteRamStoresTheByteAndNothingElse : Prop :=
  SelectedExactlyWhenWf 1 (fun b a d => .wrRam b a d) ∧
  (∀ (s : State) (b : Bank) (a : Addr) (v : Byte), s.Admits → Memory.wf 65536 s.ram = true → (Instr.wrRam b a v).wf = true →
     ∃ t, exec (.wrRam b a v) s = .next t ∧ (∀ x : Addr, t.ramByte x = if x = a then v else s.ramByte x) ∧
       s.SameButOutputs { t with ram := s.ram })

/-- R93: WR.COLOR keeps the low 4 bits of the byte in the cell at `addr - 0xD800`, after the shadow capture; no other cell
and nothing else changes, `ram` included. -/
def Obligations.WriteColorKeepsTheLowNibble : Prop :=
  SelectedExactlyWhenWf 1 (fun b a d => .wrColor b a d) ∧
  (∀ (s : State) (b : Bank) (a : Addr) (v : Byte), s.Admits → Memory.wf 4096 s.shadowIO = true →
     (Instr.wrColor b a v).wf = true →
     ∃ t, exec (.wrColor b a v) s = .next t ∧
       (∀ j : BitVec 10, (t.colorCell j).toNat =
         if j.toNat + 0xD800 = a.toNat then v.toNat % 16 else (s.colorCell j).toNat) ∧
       s.Captured t a v ∧ s.SameButOutputs { t with colorRam := s.colorRam, shadowIO := s.shadowIO })

/-- WR.SOUND is captured at the unmirrored address and has no further effect; that it logs nothing is the spec's decision D16
(notes/assumptions/23.md). -/
def Obligations.WriteSoundIsCapturedOnly : Prop :=
  SelectedExactlyWhenWf 1 (fun b a d => .wrSound b a d) ∧
  (∀ (s : State) (b : Bank) (a : Addr) (v : Byte), s.Admits → Memory.wf 4096 s.shadowIO = true →
     (Instr.wrSound b a v).wf = true →
     ∃ t, exec (.wrSound b a v) s = .next t ∧ s.Captured t a v ∧ s.SameButOutputs { t with shadowIO := s.shadowIO })

/-- WR.VIDEO: at register `addr & 0x3F = 0x21` the background colour becomes the low 4 bits of the byte, at every other
register nothing happens but the capture. The mirrors of $D021 are the spec's decisions D12 and D13, and that nothing is
logged its decision D16 (notes/assumptions/22.md, 23.md). -/
def Obligations.WriteVideoSetsOnlyTheBackground : Prop :=
  SelectedExactlyWhenWf 1 (fun b a d => .wrVideo b a d) ∧
  (∀ (s : State) (b : Bank) (a : Addr) (v : Byte), s.Admits → Memory.wf 4096 s.shadowIO = true →
     (Instr.wrVideo b a v).wf = true →
     ∃ t, exec (.wrVideo b a v) s = .next t ∧
       t.bg0.toNat = (if a.toNat % 0x40 = 0x21 then v.toNat % 16 else s.bg0.toNat) ∧
       s.Captured t a v ∧ s.SameButOutputs { t with bg0 := s.bg0, shadowIO := s.shadowIO })

/-- R96: WR.IOTA at a live index `addr & 0x0F` stores all 8 bits there and logs nothing; at every other index it logs one
`UnimplementedRegisterWrite` with the data and stores nothing. Both after the capture; nothing else changes. That the index
mask of reads applies to writes too is the spec's decision D12 (notes/assumptions/22.md). -/
def Obligations.WriteIotaStoresTheLiveByteOrLogs : Prop :=
  SelectedExactlyWhenWf 1 (fun b a d => .wrIota b a d) ∧
  (∀ (s : State) (b : Bank) (a : Addr) (v : Byte), s.Admits → Memory.wf 4096 s.shadowIO = true →
     (Instr.wrIota b a v).wf = true →
     ∃ h : a.toNat % 0x10 < 16,
       (s.cfg.iotaLive[a.toNat % 0x10] = true →
         ∃ t, exec (.wrIota b a v) s = .next t ∧
           (∀ r : BitVec 4, t.iotaByte r = if r.toNat = a.toNat % 0x10 then v else s.iotaByte r) ∧
           s.Captured t a v ∧ s.SameButOutputs { t with iota := s.iota, shadowIO := s.shadowIO }) ∧
       (s.cfg.iotaLive[a.toNat % 0x10] = false →
         ∃ t, exec (.wrIota b a v) s = .next t ∧ t.diag = s.diag ++ [⟨.unimplementedRegisterWrite, a, v⟩] ∧
           s.Captured t a v ∧ s.SameButOutputs { t with diag := s.diag, shadowIO := s.shadowIO }))

/-- R97: WR.IOTB logs one `UnimplementedRegisterWrite` with the data and changes no state but the shadow capture. -/
def Obligations.WriteIotbIsCapturedAndLogged : Prop :=
  SelectedExactlyWhenWf 1 (fun b a d => .wrIotb b a d) ∧
  (∀ (s : State) (b : Bank) (a : Addr) (v : Byte), s.Admits → Memory.wf 4096 s.shadowIO = true →
     (Instr.wrIotb b a v).wf = true →
     ∃ t, exec (.wrIotb b a v) s = .next t ∧ t.diag = s.diag ++ [⟨.unimplementedRegisterWrite, a, v⟩] ∧
       s.Captured t a v ∧ s.SameButOutputs { t with diag := s.diag, shadowIO := s.shadowIO })

/-- WR.UNMAPPED takes the fault: the latch holds code 1, the address and the data, the shadow buffer has captured the byte,
`ram` and everything else is unchanged, nothing is logged. The latch and its record are the spec's decisions D17 and D18
(notes/assumptions/10.md). -/
def Obligations.WriteUnmappedTakesTheFault : Prop :=
  SelectedExactlyWhenWf 1 (fun b a d => .wrUnmapped b a d) ∧
  (∀ (s : State) (b : Bank) (a : Addr) (v : Byte), s.Admits → Memory.wf 4096 s.shadowIO = true →
     (Instr.wrUnmapped b a v).wf = true →
     ∃ t r, exec (.wrUnmapped b a v) s = .next t ∧ t.fault = some r ∧ r.code.code = 1 ∧ r.addr = a ∧ r.data = v ∧
       s.Captured t a v ∧ s.SameButOutputs { t with fault := s.fault, shadowIO := s.shadowIO })

/-- R98: on the register path, and only there, a write is captured, with the full address and the full byte: for a WR request
that is served, the shadow buffer takes the byte iff `bank[1:0] != 0` and the address is in $D000 to $DFFF, `WR.UNMAPPED`
included. -/
def Obligations.CaptureOnTheRegisterPathOnly : Prop :=
  ∀ (s t : State) (a : Addr) (v : Byte) (rest : List Request), Memory.wf 4096 s.shadowIO = true →
    s.RequestsWrite a v rest → step s = .next t →
    ((s.RegistersWritable ∧ 0xD000 ≤ a.toNat ∧ a.toNat ≤ 0xDFFF) → s.Captured t a v) ∧
    (¬ (s.RegistersWritable ∧ 0xD000 ≤ a.toNat ∧ a.toNat ≤ 0xDFFF) → t.shadowIO = s.shadowIO)

/-- R99 with R47: a register-path write never changes `ram`, and it changes at most one of the colour table, the live bytes,
`bg0` and the latch, and never `fb`. -/
def Obligations.RegisterPathWritesChangeAtMostOneStore : Prop :=
  ∀ (s t : State) (a : Addr) (v : Byte) (rest : List Request), s.RegistersWritable →
    0xD000 ≤ a.toNat → a.toNat ≤ 0xDFFF → s.RequestsWrite a v rest → step s = .next t →
    t.ram = s.ram ∧ t.fb = s.fb ∧ t.cfg = s.cfg ∧
    ((t.iota = s.iota ∧ t.bg0 = s.bg0 ∧ t.fault = s.fault) ∨ (t.colorRam = s.colorRam ∧ t.bg0 = s.bg0 ∧ t.fault = s.fault) ∨
     (t.colorRam = s.colorRam ∧ t.iota = s.iota ∧ t.fault = s.fault) ∨
     (t.colorRam = s.colorRam ∧ t.iota = s.iota ∧ t.bg0 = s.bg0))

/-- R59: what `RD a` answers after `WR a, v` with no write between and the bank unchanged, by the table of R59, for every
bank, address and byte; where the write faults, the read is refused. Rows of it rest on decisions of the spec: that the upper
four bits of a colour cell read as 0 is D11 (notes/assumptions/21.md), that a write of a mirror of a live index sets it D12
(22.md), and that no read follows a faulting write D18 (10.md). -/
def Obligations.ReadAfterWriteByRegion : Prop :=
  ∀ (s t : State) (a : Addr) (v : Byte) (r : Request) (d : Byte) (rest : List Request), Memory.wf 65536 s.ram = true →
    r.word = mkWord 0 0 a d → s.RequestsWrite a v (r :: rest) → step s = .next t → t.bank = s.bank →
    match readAfterWrite s.cfg s.bank a v with
    | some w => t.fault = none ∧ ∃ u, step t = .next u ∧ u.rdata = some w
    | none => t.fault.isSome = true ∧ step t = .refused .faultLatched

/-! ## Bank-select -/

/-- R20, R21: the bank is the low three bits of the RAM cell at address 1, observed fresh on every access: every request
decodes under `ram[1][2:0]` as `ram` stands when it starts; a WR of $0001 is a WR.RAM under every bank, stores the whole byte,
and the step after it decodes under the low three bits of that byte, so bits 7 to 3 have no influence. -/
def Obligations.BankIsObservedFreshOnEveryAccess : Prop :=
  (∀ (s : State) (r : Request) (rest : List Request) (i : Instr), s.requests = r :: rest →
    decodeRequest ((s.ramByte 1).extractLsb' 0 3) r.word = .ok i → step s = exec i (s.served r rest)) ∧
  (∀ (s : State) (v : Byte) (w r : Request) (rest : List Request), s.Admits → Memory.wf 65536 s.ram = true →
    s.requests = w :: r :: rest → w.word = mkWord 1 0 1 v →
    step s = exec (.wrRam s.bank 1 v) (s.served w (r :: rest)) ∧
    ∃ t, step s = .next t ∧ t.ramByte 1 = v ∧ t.bank.toNat = v.toNat % 8 ∧
      ∀ i, decodeRequest (v.extractLsb' 0 3) r.word = .ok i → step t = exec i (t.served r rest))

/-- R21: bank-select changes in exactly one way, a WR to $0001 (RESET, which sets every state element, apart). -/
def Obligations.BankChangesOnlyByAWriteOfItsCell : Prop :=
  ∀ (s t : State) (r : Request) (rest : List Request), Memory.wf 65536 s.ram = true → s.requests = r :: rest →
    step s = .next t → t.bank ≠ s.bank →
    opField r.word = 3 ∨ (opField r.word = 1 ∧ addrField r.word = 1 ∧ t.ramByte 1 = dataField r.word)

/-- R21: a read of $0001 answers all 8 bits of `ram[1]` under every bank. -/
def Obligations.BankCellReadsBackWhole : Prop :=
  ∀ (s : State) (rest : List Request), s.Admits → s.RequestsRead 1 rest →
    ∃ t, step s = .next t ∧ t.rdata = some (s.ramByte 1)

/-! ## Ports and logs -/

/-- The output `sel` (the spec's decision D1): after a RD or WR it is the target that the chain or the write rule selects,
one line of the ten is active, and after FRAME and RESET none. -/
def Obligations.SelIsTheResolvedTarget : Prop :=
  ∀ (s t : State) (r : Request) (rest : List Request), s.requests = r :: rest → step s = .next t →
    (opField r.word = 0 → t.sel = some (readTarget s.bank (addrField r.word))) ∧
    (opField r.word = 1 → t.sel = some (writeTarget s.bank (addrField r.word))) ∧
    (2 ≤ (opField r.word).toNat → t.sel = none) ∧
    (∀ x : Target, ∃ k, k < 10 ∧ (selLines (some x)).toNat = 2 ^ k) ∧
    (∀ x y : Target, selLines (some x) = selLines (some y) → x = y) ∧ selLines none = 0

/-- The mirrors of a live port byte (decisions D12, D14): a byte written to a live index of I/O-timer block A under bank 5, 6
or 7 is read back whole at every address of the block with the same index. -/
def Obligations.LivePortReadsBackAtEveryMirror : Prop :=
  ∀ (s : State) (a a' : Addr) (v : Byte) (rest rest' : List Request), s.Admits →
    (s.bank = 5 ∨ s.bank = 6 ∨ s.bank = 7) →
    0xDC00 ≤ a.toNat → a.toNat ≤ 0xDCFF → 0xDC00 ≤ a'.toNat → a'.toNat ≤ 0xDCFF → a'.toNat % 16 = a.toNat % 16 →
    iotaIsLive s.cfg (ioIndex a) = true → s.RequestsWrite a v rest → rest = requestRd a' :: rest' →
    ∃ t u, step s = .next t ∧ step t = .next u ∧ u.rdata = some v ∧ u.diag = s.diag

/-- R35, R123: the log is append-only but for RESET, a step appends at most one event, which is on the output `diag_out` of
R36 (none when it appends none), and a step that sets the latch appends none. -/
def Obligations.LogIsAppendOnly : Prop :=
  ∀ (s t : State) (r : Request) (rest : List Request), s.requests = r :: rest → step s = .next t → opField r.word ≠ 3 →
    ∃ l : List Diag, t.diag = s.diag ++ l ∧ l.length ≤ 1 ∧ t.diagOut = l.head? ∧ (t.fault ≠ s.fault → l = [])

/-- R16, R35: no operation reads `shadowIO` or `diag`, and no result depends on them: two states that differ in nothing else
make the same step, up to these two. -/
def Obligations.LogsAreNeverRead : Prop :=
  ∀ s t : State, s.SameButLogs t → outcomesSameButLogs (step s) (step t)

/-- R43 (decision D33): the primitives move one byte; any other width is refused, and width 1 is the bus contract. -/
def Obligations.OnlyByteAccessesAreDefined : Prop :=
  ∀ (s : State) (a : Addr) (n : Nat) (v : Byte),
    (n ≠ 1 → memRead a n s = .refused .accessWidth ∧ memWrite a n v s = .refused .accessWidth) ∧
    memRead a 1 s = exec (readInstr (readTarget s.bank a) s.bank a) s ∧
    memWrite a 1 v s = exec (writeInstr (writeTarget s.bank a) s.bank a v) s

/-! ## Fault and admission -/

/-- The admission (decision D18): while the latch is set every operation but RESET is refused, and RESET is admitted; without
a fault and with a valid configuration every operation answers a next state. -/
def Obligations.OnlyResetIsAdmittedWhileFaulted : Prop :=
  ∀ (s : State) (i : Instr), s.CfgValid →
    (∀ r, s.fault = some r → i ≠ .reset → exec i s = .refused .faultLatched) ∧
    ((s.fault = none ∨ i = .reset) → ∃ t, exec i s = .next t)

/-- The life of the latch (R34, decision D18): a step sets it only by a WR in $DE00 to $DFFF with `bank[1:0] != 0`, whose
address and data it records, and clears it only by RESET. -/
def Obligations.LatchIsSetByUnmappedWritesAndClearedByReset : Prop :=
  ∀ (s t : State) (r : Request) (rest : List Request), s.requests = r :: rest → step s = .next t →
    (∀ f, t.fault = some f → s.fault = none ∧ opField r.word = 1 ∧ f.addr = addrField r.word ∧ f.data = dataField r.word ∧
      0xDE00 ≤ f.addr.toNat ∧ f.addr.toNat ≤ 0xDFFF ∧ s.RegistersWritable) ∧
    (s.fault ≠ none → t.fault = none ∧ opField r.word = 3)

/-- The unmapped range (R72, R145, decision D18): a write there is fatal unless bank is 0 or 4, when it lands in RAM; a read
there is never fatal. -/
def Obligations.UnmappedRangeIsFatalToWritesOnly : Prop :=
  ∀ (s : State) (a : Addr) (v : Byte) (rest : List Request), s.Admits → Memory.wf 65536 s.ram = true →
    0xDE00 ≤ a.toNat → a.toNat ≤ 0xDFFF →
    (s.RequestsWrite a v rest → (s.bank = 0 ∨ s.bank = 4) →
      ∃ t, step s = .next t ∧ t.fault = none ∧ t.ramByte a = v) ∧
    (s.RequestsWrite a v rest → s.bank ≠ 0 → s.bank ≠ 4 →
      ∃ t, step s = .next t ∧ t.fault.isSome = true ∧ t.ram = s.ram) ∧
    (s.RequestsRead a rest → ∃ t, step s = .next t ∧ t.fault = none)

/-- R6: a configuration that breaks a constraint is refused: no operation has a meaning in it. That the refusal is
`faultLatched` instead while the latch is set is the model's (notes/assumptions/12.md). The sizes of the images and
R31's constraint on the stubs hold by the types (notes/assumptions/16.md). -/
def Obligations.BrokenConfigurationIsRefused : Prop :=
  ∀ (s : State) (i : Instr),
    (s.cfg.ram1Reset.toNat % 8 ≠ 7 ∨ s.cfg.rows = 0 ∨ s.cfg.cols = 0 ∨ 1024 < s.cfg.rows * s.cfg.cols ∨
      65536 < s.cfg.screenBase.toNat + s.cfg.rows * s.cfg.cols ∨ 511 < s.cfg.codepageOffset + 255 ∨
      s.cfg.fbW < s.cfg.originX + 8 * s.cfg.cols ∨ s.cfg.fbH < s.cfg.originY + 8 * s.cfg.rows) →
    ∃ x, exec i s = .refused x ∧ (s.fault = none → x = .invalidConfig)

/-- R18: no operation writes a ROM image (nor any other field of the configuration), and a write is never routed to one. -/
def Obligations.RomImagesAreNeverMutated : Prop :=
  (∀ s t : State, step s = .next t →
    t.cfg.basicRom = s.cfg.basicRom ∧ t.cfg.kernalRom = s.cfg.kernalRom ∧ t.cfg.charRom = s.cfg.charRom ∧
      t.cfg = s.cfg) ∧
  (∀ (b : Bank) (a : Addr), writeTarget b a ≠ .basic ∧ writeTarget b a ≠ .kernal ∧ writeTarget b a ≠ .char)

/-! ## The compositor -/

/-- FRAME: every pixel of `fb` is what its position says: the text layer's foreground where the glyph bit of its cell is set,
the cursor over or under it, the background layer elsewhere and outside the grid; nothing but `fb` changes. That the
background is painted first is the spec's decision D24, the geometry its decisions D19, D20, D22, the cursor its D29
(notes/assumptions/24.md to 26.md). -/
def Obligations.FramePixelsAreLayered : Prop :=
  ∀ s : State, s.Admits →
    ∃ t f, exec .frame s = .next t ∧ t.fb = some f ∧ Framebuffer.Shaped s.cfg.fbW s.cfg.fbH f ∧
      (∀ x y, x < s.cfg.fbW → y < s.cfg.fbH → Framebuffer.pixel? f x y = some (framePixel s x y)) ∧
      s.SameButOutputs { t with fb := s.fb }

/-- RENDER with all its arguments (R101 to R106): pixel `(x, y)` of cell `i` is bit `7 - x` of byte `8*(code +
CODEPAGE_OFFSET) + y` of the glyph ROM supplied; a set bit paints the palette's entry for the low 4 bits of the foreground
table's byte, or `DEFAULT_TILE_COLOUR` with no foreground table; a clear bit paints the same of the background table if one is
supplied, and otherwise leaves the destination pixel; pixels outside the grid are untouched. Whatever the tables, glyphs,
palette and previous framebuffer. The byte, row and cell order are the spec's decisions D19, D20, D22 (notes/assumptions/24.md),
the lookup of both tables its D25 and D26 (25.md). -/
def Obligations.RenderPaintsTheGlyphBits : Prop :=
  ∀ (c : Cfg) (args : RenderArgs) (f : Framebuffer) (w h : Nat), Framebuffer.Shaped w h f →
    args.originX + 8 * c.cols ≤ w → args.originY + 8 * c.rows ≤ h →
    (∀ i y x, i < c.rows * c.cols → y < 8 → x < 8 →
      Framebuffer.pixel? (render c args f) (args.originX + 8 * (i % c.cols) + x) (args.originY + 8 * (i / c.cols) + y) =
        if (args.glyphRom (8 * ((args.videoBuffer i).toNat + c.codepageOffset) + y)).getLsbD (7 - x) then
          some (match args.foreground with
            | some table => args.palette ((table i).extractLsb' 0 4)
            | none => c.defaultTileColour.val)
        else match args.background with
          | some table => some (args.palette ((table i).extractLsb' 0 4))
          | none => Framebuffer.pixel? f (args.originX + 8 * (i % c.cols) + x) (args.originY + 8 * (i / c.cols) + y)) ∧
    (∀ px py, ¬ (args.originX ≤ px ∧ px < args.originX + 8 * c.cols ∧ args.originY ≤ py ∧ py < args.originY + 8 * c.rows) →
      Framebuffer.pixel? (render c args f) px py = Framebuffer.pixel? f px py)

/-- R115: a cell whose glyph is all zero bytes, with no background table, leaves its 64 pixels as they were. Where the
framebuffer does not hold the grid, the statement rests on the model's choice that a write outside it is dropped
(notes/assumptions/31.md). -/
def Obligations.EmptyGlyphIsTransparent : Prop :=
  ∀ (c : Cfg) (args : RenderArgs) (f : Framebuffer) (i : Nat), i < c.rows * c.cols → args.background = none →
    (∀ y, y < 8 → args.glyphRom (8 * ((args.videoBuffer i).toNat + c.codepageOffset) + y) = 0) → ∀ x y, x < 8 → y < 8 →
    Framebuffer.pixel? (render c args f) (args.originX + 8 * (i % c.cols) + x) (args.originY + 8 * (i / c.cols) + y) =
      Framebuffer.pixel? f (args.originX + 8 * (i % c.cols) + x) (args.originY + 8 * (i / c.cols) + y)

/-- R114: in one RENDER each destination pixel is written at most once, so the order of the loops cannot be observed. -/
def Obligations.RenderWritesEachPixelAtMostOnce : Prop :=
  ∀ (c : Cfg) (args : RenderArgs), (renderWrites c args).Pairwise (fun v w => ¬ (v.x = w.x ∧ v.y = w.y))

/-- R33, R52, R108: what FRAME shows depends on nothing but the configuration, the text cells, the colour table, `bg0` and the
cursor's input and cells: not on the bank, the previous framebuffer, the ports, the shadow buffer or the rest of `ram`. That
the previous framebuffer does not show through, because the background is painted over every pixel first, is the spec's
decision D24 (notes/assumptions/25.md). -/
def Obligations.FrameDependsOnTheDisplayStateOnly : Prop :=
  ∀ s s' : State, s.Admits → s'.Admits → s.SameDisplay s' →
    ∃ t t' f, exec .frame s = .next t ∧ exec .frame s' = .next t' ∧ t.fb = some f ∧ t'.fb = some f

/-- A write of $D021 under bank 7 recolours the background layer of the next FRAME with the palette entry of the value's low 4
bits, for all 256 values: at every pixel that neither text nor cursor paints (R95, R109; decisions D24, D34). -/
def Obligations.BackgroundWriteRecoloursTheNextFrame : Prop :=
  ∀ (s : State) (v : Byte), s.Admits →
    ∃ t u f, exec (.wrVideo 7 0xD021 v) s = .next t ∧ exec .frame t = .next u ∧ u.fb = some f ∧
      ∀ x y, x < s.cfg.fbW → y < s.cfg.fbH → textPixel? s x y = none → cursorPixel? s x y = none →
        Framebuffer.pixel? f x y = some (s.cfg.palette[v.toNat % 16]'(Nat.mod_lt _ (by decide)))

/-- R33, R152: before the first FRAME the framebuffer has no value; after a FRAME every pixel inside has one. The host's read
`State.readPixel`, that it answers a fault before the first FRAME, and that it answers a fault outside the framebuffer are the
model's, DEDUCED (notes/assumptions/18.md): the rules say only that reading `fb` then is a fault of the claim. -/
def Obligations.FramebufferHasNoValueBeforeTheFirstFrame : Prop :=
  ∀ s : State, s.CfgValid →
    ∃ t u, exec .reset s = .next t ∧ (∀ x y, t.readPixel x y = .error .framebufferHasNoValue) ∧
      exec .frame t = .next u ∧
      ∀ x y, if x < s.cfg.fbW ∧ y < s.cfg.fbH then ∃ k, u.readPixel x y = .ok k
        else u.readPixel x y = .error .pixelOutsideFramebuffer

/-! ## Reset and the invariant -/

/-- RESET: every state element at its reset value, the latch and the log cleared, the configuration and the inputs kept, in
every state, the faulted one included. The values 0 of `shadowIO` and `iota` are the spec's decisions D8 and D9, the others
its parameters (D6, D7, D10; notes/assumptions/3.md, 4.md). -/
def Obligations.ResetLeavesTheResetValues : Prop :=
  ∀ s : State, s.CfgValid →
    ∃ t, exec .reset s = .next t ∧ t.cfg = s.cfg ∧ t.requests = s.requests ∧ t.cursorVisible = s.cursorVisible ∧
      (∀ a : Addr, t.ramByte a = if a = 1 then s.cfg.ram1Reset else 0) ∧ t.bank = 7 ∧
      (∀ j : BitVec 10, t.colorCell j = s.cfg.colorReset) ∧ (∀ j : BitVec 12, t.shadowByte j = 0) ∧
      (∀ r : BitVec 4, t.iotaByte r = 0) ∧ t.bg0 = s.cfg.bg0Reset ∧ t.fb = none ∧ t.fault = none ∧ t.diag = []

/-- R142: a FRAME right after RESET shows in every cell the glyph numbered `CODEPAGE_OFFSET` in `PALETTE[COLOR_RESET]` over
`PALETTE[BG0_RESET]`, the cursor aside, when the text buffer does not cover `ram[1]`, which reset does not clear. Every pixel
of it rests on decisions of the spec: the background painted first on D24 (notes/assumptions/25.md), where a glyph's pixels lie
on D19, D20, D22 (24.md); the reset colours are the parameters of D7 and D10. -/
def Obligations.FirstFrameAfterReset : Prop :=
  ∀ s : State, s.CfgValid → s.cursorVisible = false →
    ¬ (s.cfg.screenBase.toNat ≤ 1 ∧ 1 < s.cfg.screenBase.toNat + s.cfg.rows * s.cfg.cols) →
    ∃ t u f, exec .reset s = .next t ∧ exec .frame t = .next u ∧ u.fb = some f ∧
      ∀ i y x, i < s.cfg.rows * s.cfg.cols → y < 8 → x < 8 →
        Framebuffer.pixel? f (s.cfg.originX + 8 * (i % s.cfg.cols) + x) (s.cfg.originY + 8 * (i / s.cfg.cols) + y) =
          some (paletteColour s.cfg
            (if (imageByte s.cfg.charRom (8 * s.cfg.codepageOffset + y)).getLsbD (7 - x) then s.cfg.colorReset
             else s.cfg.bg0Reset))

/-- The invariant holds after reset, for every valid configuration, and in `State.reset`. -/
def Obligations.InvariantHoldsAfterReset : Prop :=
  (∀ c : Cfg, c.valid = true → (State.resetOf c).Inv) ∧ State.reset.Inv

/-- Every step keeps the invariant, from every state that meets it: stores in canonical form and inside their sizes, `iota`
used at live indices only, `fb` of its shape with values of the pixel type, a latched fault an unmapped register-path write
whose byte the shadow buffer holds, every logged event one its operation emits, and never a fault together with a diagnostic. -/
def Obligations.EveryStepKeepsTheInvariant : Prop :=
  ∀ s t : State, s.Inv → step s = .next t → t.Inv
end

