-- ==== Sys2Proof/Laws/Decode.lean ====
section
/-! SUPPORT. The fields of a word built from fields, and that the decode table looks at the high half of a word only, so
that a question about decoding is a question about `op`, `rsv`, `bank` and `addr[15:8]`. -/

namespace Sys2Proof

/-- An append as a number. -/
theorem append_toNat {m n : Nat} (x : BitVec m) (y : BitVec n) : (x ++ y).toNat = x.toNat * 2 ^ n + y.toNat := by
  rw [BitVec.toNat_append, ← Nat.shiftLeft_add_eq_or_of_lt y.isLt, Nat.shiftLeft_eq]

/-- A word built from fields, as a number (R61, R62). -/
theorem mkWord_toNat (op : BitVec 4) (b : Bank) (a : Addr) (d : Byte) :
    (mkWord op b a d).toNat = op.toNat * 2 ^ 28 + b.toNat * 2 ^ 24 + a.toNat * 2 ^ 8 + d.toNat := by
  unfold mkWord
  rw [append_toNat, append_toNat, append_toNat, append_toNat]
  simp only [BitVec.toNat_ofNat]
  omega

@[simp] theorem opField_mkWord (op : BitVec 4) (b : Bank) (a : Addr) (d : Byte) : opField (mkWord op b a d) = op := by
  apply BitVec.eq_of_toNat_eq
  have := mkWord_toNat op b a d
  simp only [opField, BitVec.extractLsb'_toNat, Nat.shiftRight_eq_div_pow]
  omega

@[simp] theorem bankField_mkWord (op : BitVec 4) (b : Bank) (a : Addr) (d : Byte) : bankField (mkWord op b a d) = b := by
  apply BitVec.eq_of_toNat_eq
  have := mkWord_toNat op b a d
  simp only [bankField, BitVec.extractLsb'_toNat, Nat.shiftRight_eq_div_pow]
  omega

@[simp] theorem addrField_mkWord (op : BitVec 4) (b : Bank) (a : Addr) (d : Byte) : addrField (mkWord op b a d) = a := by
  apply BitVec.eq_of_toNat_eq
  have := mkWord_toNat op b a d
  simp only [addrField, BitVec.extractLsb'_toNat, Nat.shiftRight_eq_div_pow]
  omega

@[simp] theorem dataField_mkWord (op : BitVec 4) (b : Bank) (a : Addr) (d : Byte) : dataField (mkWord op b a d) = d := by
  apply BitVec.eq_of_toNat_eq
  have := mkWord_toNat op b a d
  simp only [dataField, BitVec.extractLsb'_toNat, Nat.shiftRight_eq_div_pow]
  omega

/-- The four must-be-zero bits of a request word hold the bank it was built with (R61, R62). -/
theorem zeroField_mkWord_toNat (op : BitVec 4) (b : Bank) (a : Addr) (d : Byte) :
    (zeroField (mkWord op b a d)).toNat = b.toNat := by
  have := mkWord_toNat op b a d
  simp only [zeroField, BitVec.extractLsb'_toNat, Nat.shiftRight_eq_div_pow]
  omega

@[simp] theorem zeroField_mkWord_zero (op : BitVec 4) (a : Addr) (d : Byte) : zeroField (mkWord op 0#3 a d) = 0#4 :=
  BitVec.eq_of_toNat_eq (by rw [zeroField_mkWord_toNat]; rfl)

/-- A row that looks at no bit of the low half. -/
def Row.HighOnly (r : Row) : Prop := r.mask.extractLsb' 0 16 = 0 ∧ r.pattern.extractLsb' 0 16 = 0

/-- What a row says of the high half of a decode word. -/
def Row.matchesHigh (r : Row) (h : BitVec 16) : Bool := h &&& r.mask.extractLsb' 16 16 == r.pattern.extractLsb' 16 16

/-- The high half of a decode word: `op`, `rsv = 0`, `bank`, `addr[15:8]`. -/
def highHalf (op : BitVec 4) (b : Bank) (h : BitVec 8) : BitVec 16 := op ++ 0#1 ++ b ++ h

theorem Row.matches_eq_high {r : Row} (hr : r.HighOnly) (t : OpWord) :
    r.matches t = r.matchesHigh (t.extractLsb' 16 16) := by
  obtain ⟨hm, hp⟩ := hr
  have hml : ∀ i, i < 16 → r.mask.getLsbD i = false := fun i hi => by
    have := congrArg (fun v => BitVec.getLsbD v i) hm
    simpa [BitVec.getLsbD_extractLsb', hi] using this
  have hpl : ∀ i, i < 16 → r.pattern.getLsbD i = false := fun i hi => by
    have := congrArg (fun v => BitVec.getLsbD v i) hp
    simpa [BitVec.getLsbD_extractLsb', hi] using this
  rw [Bool.eq_iff_iff]
  simp only [Row.matches, Row.matchesHigh, beq_iff_eq]
  constructor
  · intro h
    rw [← h]
    ext i hi
    simp
  · intro h
    apply BitVec.eq_of_getLsbD_eq
    intro i hi
    by_cases h16 : i < 16
    · simp [hml i h16, hpl i h16]
    · have := congrArg (fun v => BitVec.getLsbD v (i - 16)) h
      have hlt : i - 16 < 16 := by omega
      simpa [BitVec.getLsbD_extractLsb', hlt, show 16 + (i - 16) = i by omega] using this

/-- Every row of the table looks at the high half only. -/
theorem decodeTable_highOnly : ∀ r ∈ decodeTable, r.HighOnly := by
  unfold Row.HighOnly
  decide

/-- The table's choice for a decode word is its choice for the high half. -/
theorem selectRow_eq_high (t : OpWord) :
    selectRow t = decodeTable.find? (fun r => r.matchesHigh (t.extractLsb' 16 16)) := by
  unfold selectRow
  have : ∀ (l : List Row), (∀ r ∈ l, r.HighOnly) →
      l.find? (fun r => r.matches t) = l.find? (fun r => r.matchesHigh (t.extractLsb' 16 16)) := by
    intro l
    induction l with
    | nil => intro _; rfl
    | cons r rest ih =>
      intro h
      simp only [List.find?_cons, Row.matches_eq_high (h r (by simp)) t,
        ih (fun r' hr' => h r' (List.mem_cons_of_mem _ hr'))]
  exact this _ decodeTable_highOnly

/-- The high half, as a number. -/
theorem highHalf_toNat (op : BitVec 4) (b : Bank) (h : BitVec 8) :
    (highHalf op b h).toNat = op.toNat * 2 ^ 12 + b.toNat * 2 ^ 8 + h.toNat := by
  unfold highHalf
  rw [append_toNat, append_toNat, append_toNat]
  simp only [BitVec.toNat_ofNat]
  omega

/-- The high half of a word built from fields. -/
theorem high_mkWord (op : BitVec 4) (b : Bank) (a : Addr) (d : Byte) :
    (mkWord op b a d).extractLsb' 16 16 = highHalf op b (a.extractLsb' 8 8) := by
  apply BitVec.eq_of_toNat_eq
  have h1 := mkWord_toNat op b a d
  rw [highHalf_toNat]
  simp only [BitVec.extractLsb'_toNat, Nat.shiftRight_eq_div_pow]
  omega

/-- A word is built from its fields, `rsv` being 0. -/
theorem mkWord_fields (t : OpWord) (h : t.getLsbD 27 = false) :
    mkWord (opField t) (bankField t) (addrField t) (dataField t) = t := by
  apply BitVec.eq_of_toNat_eq
  rw [mkWord_toNat]
  have h27 : t.toNat / 2 ^ 27 % 2 = 0 := by
    rw [BitVec.getLsbD, Nat.testBit_eq_decide_div_mod_eq] at h
    have := of_decide_eq_false h
    omega
  simp only [opField, bankField, addrField, dataField, BitVec.extractLsb'_toNat, Nat.shiftRight_eq_div_pow]
  have := t.isLt
  omega

/-- Every row of the table fixes all of `op` (R61). -/
theorem decodeTable_op : ∀ r ∈ decodeTable, opField r.mask = 0xF := by decide

/-- A row that selects a word has its `op`. -/
theorem Row.op_of_matches {r : Row} (hr : opField r.mask = 0xF) {t : OpWord} (h : r.matches t = true) :
    opField t = opField r.pattern := by
  have e : t &&& r.mask = r.pattern := by simpa [Row.matches] using h
  have split_and : opField (t &&& r.mask) = opField t &&& opField r.mask := by
    unfold opField
    ext i hi
    simp
  rw [← e, split_and, hr]
  generalize opField t = x
  revert x
  decide

end Sys2Proof
end

