-- ==== Sys2Proof/Laws/State.lean ====
section
/-! SUPPORT. What each named update does to each field of the state, so that no later proof unfolds a record update. The
views (`ramByte`, `colorCell`, `iotaByte`, `shadowByte`) are carried past the updates that do not touch their store. -/

namespace Sys2Proof.Machine

variable (s : State)

/-! `State.storeRam` -/

@[simp] theorem storeRam_cfg (a : Addr) (v : Byte) : (s.storeRam a v).cfg = s.cfg := rfl
@[simp] theorem storeRam_ram (a : Addr) (v : Byte) : (s.storeRam a v).ram = Memory.write s.ram a.toNat v := rfl
@[simp] theorem storeRam_colorRam (a : Addr) (v : Byte) : (s.storeRam a v).colorRam = s.colorRam := rfl
@[simp] theorem storeRam_shadowIO (a : Addr) (v : Byte) : (s.storeRam a v).shadowIO = s.shadowIO := rfl
@[simp] theorem storeRam_iota (a : Addr) (v : Byte) : (s.storeRam a v).iota = s.iota := rfl
@[simp] theorem storeRam_bg0 (a : Addr) (v : Byte) : (s.storeRam a v).bg0 = s.bg0 := rfl
@[simp] theorem storeRam_fb (a : Addr) (v : Byte) : (s.storeRam a v).fb = s.fb := rfl
@[simp] theorem storeRam_fault (a : Addr) (v : Byte) : (s.storeRam a v).fault = s.fault := rfl
@[simp] theorem storeRam_diag (a : Addr) (v : Byte) : (s.storeRam a v).diag = s.diag := rfl
@[simp] theorem storeRam_requests (a : Addr) (v : Byte) : (s.storeRam a v).requests = s.requests := rfl
@[simp] theorem storeRam_cursorVisible (a : Addr) (v : Byte) : (s.storeRam a v).cursorVisible = s.cursorVisible := rfl
@[simp] theorem storeRam_rdata (a : Addr) (v : Byte) : (s.storeRam a v).rdata = s.rdata := rfl
@[simp] theorem storeRam_sel (a : Addr) (v : Byte) : (s.storeRam a v).sel = s.sel := rfl
@[simp] theorem storeRam_diagOut (a : Addr) (v : Byte) : (s.storeRam a v).diagOut = s.diagOut := rfl
@[simp] theorem storeRam_colorCell (a : Addr) (v : Byte) (x : BitVec 10) : (s.storeRam a v).colorCell x = s.colorCell x := rfl
@[simp] theorem storeRam_iotaByte (a : Addr) (v : Byte) (x : BitVec 4) : (s.storeRam a v).iotaByte x = s.iotaByte x := rfl
@[simp] theorem storeRam_shadowByte (a : Addr) (v : Byte) (x : BitVec 12) : (s.storeRam a v).shadowByte x = s.shadowByte x := rfl

/-! `State.storeColor` -/

@[simp] theorem storeColor_cfg (i : BitVec 10) (k : Nibble) : (s.storeColor i k).cfg = s.cfg := rfl
@[simp] theorem storeColor_ram (i : BitVec 10) (k : Nibble) : (s.storeColor i k).ram = s.ram := rfl
@[simp] theorem storeColor_colorRam (i : BitVec 10) (k : Nibble) : (s.storeColor i k).colorRam = s.colorRam.set i.toNat k i.isLt := rfl
@[simp] theorem storeColor_shadowIO (i : BitVec 10) (k : Nibble) : (s.storeColor i k).shadowIO = s.shadowIO := rfl
@[simp] theorem storeColor_iota (i : BitVec 10) (k : Nibble) : (s.storeColor i k).iota = s.iota := rfl
@[simp] theorem storeColor_bg0 (i : BitVec 10) (k : Nibble) : (s.storeColor i k).bg0 = s.bg0 := rfl
@[simp] theorem storeColor_fb (i : BitVec 10) (k : Nibble) : (s.storeColor i k).fb = s.fb := rfl
@[simp] theorem storeColor_fault (i : BitVec 10) (k : Nibble) : (s.storeColor i k).fault = s.fault := rfl
@[simp] theorem storeColor_diag (i : BitVec 10) (k : Nibble) : (s.storeColor i k).diag = s.diag := rfl
@[simp] theorem storeColor_requests (i : BitVec 10) (k : Nibble) : (s.storeColor i k).requests = s.requests := rfl
@[simp] theorem storeColor_cursorVisible (i : BitVec 10) (k : Nibble) : (s.storeColor i k).cursorVisible = s.cursorVisible := rfl
@[simp] theorem storeColor_rdata (i : BitVec 10) (k : Nibble) : (s.storeColor i k).rdata = s.rdata := rfl
@[simp] theorem storeColor_sel (i : BitVec 10) (k : Nibble) : (s.storeColor i k).sel = s.sel := rfl
@[simp] theorem storeColor_diagOut (i : BitVec 10) (k : Nibble) : (s.storeColor i k).diagOut = s.diagOut := rfl
@[simp] theorem storeColor_ramByte (i : BitVec 10) (k : Nibble) (x : Addr) : (s.storeColor i k).ramByte x = s.ramByte x := rfl
@[simp] theorem storeColor_iotaByte (i : BitVec 10) (k : Nibble) (x : BitVec 4) : (s.storeColor i k).iotaByte x = s.iotaByte x := rfl
@[simp] theorem storeColor_shadowByte (i : BitVec 10) (k : Nibble) (x : BitVec 12) : (s.storeColor i k).shadowByte x = s.shadowByte x := rfl
@[simp] theorem storeColor_bank (i : BitVec 10) (k : Nibble) : (s.storeColor i k).bank = s.bank := rfl

/-! `State.storeIota` -/

@[simp] theorem storeIota_cfg (r : BitVec 4) (v : Byte) : (s.storeIota r v).cfg = s.cfg := rfl
@[simp] theorem storeIota_ram (r : BitVec 4) (v : Byte) : (s.storeIota r v).ram = s.ram := rfl
@[simp] theorem storeIota_colorRam (r : BitVec 4) (v : Byte) : (s.storeIota r v).colorRam = s.colorRam := rfl
@[simp] theorem storeIota_shadowIO (r : BitVec 4) (v : Byte) : (s.storeIota r v).shadowIO = s.shadowIO := rfl
@[simp] theorem storeIota_iota (r : BitVec 4) (v : Byte) : (s.storeIota r v).iota = s.iota.set r.toNat v r.isLt := rfl
@[simp] theorem storeIota_bg0 (r : BitVec 4) (v : Byte) : (s.storeIota r v).bg0 = s.bg0 := rfl
@[simp] theorem storeIota_fb (r : BitVec 4) (v : Byte) : (s.storeIota r v).fb = s.fb := rfl
@[simp] theorem storeIota_fault (r : BitVec 4) (v : Byte) : (s.storeIota r v).fault = s.fault := rfl
@[simp] theorem storeIota_diag (r : BitVec 4) (v : Byte) : (s.storeIota r v).diag = s.diag := rfl
@[simp] theorem storeIota_requests (r : BitVec 4) (v : Byte) : (s.storeIota r v).requests = s.requests := rfl
@[simp] theorem storeIota_cursorVisible (r : BitVec 4) (v : Byte) : (s.storeIota r v).cursorVisible = s.cursorVisible := rfl
@[simp] theorem storeIota_rdata (r : BitVec 4) (v : Byte) : (s.storeIota r v).rdata = s.rdata := rfl
@[simp] theorem storeIota_sel (r : BitVec 4) (v : Byte) : (s.storeIota r v).sel = s.sel := rfl
@[simp] theorem storeIota_diagOut (r : BitVec 4) (v : Byte) : (s.storeIota r v).diagOut = s.diagOut := rfl
@[simp] theorem storeIota_ramByte (r : BitVec 4) (v : Byte) (x : Addr) : (s.storeIota r v).ramByte x = s.ramByte x := rfl
@[simp] theorem storeIota_colorCell (r : BitVec 4) (v : Byte) (x : BitVec 10) : (s.storeIota r v).colorCell x = s.colorCell x := rfl
@[simp] theorem storeIota_shadowByte (r : BitVec 4) (v : Byte) (x : BitVec 12) : (s.storeIota r v).shadowByte x = s.shadowByte x := rfl
@[simp] theorem storeIota_bank (r : BitVec 4) (v : Byte) : (s.storeIota r v).bank = s.bank := rfl

/-! `State.storeBg0` -/

@[simp] theorem storeBg0_cfg (k : Nibble) : (s.storeBg0 k).cfg = s.cfg := rfl
@[simp] theorem storeBg0_ram (k : Nibble) : (s.storeBg0 k).ram = s.ram := rfl
@[simp] theorem storeBg0_colorRam (k : Nibble) : (s.storeBg0 k).colorRam = s.colorRam := rfl
@[simp] theorem storeBg0_shadowIO (k : Nibble) : (s.storeBg0 k).shadowIO = s.shadowIO := rfl
@[simp] theorem storeBg0_iota (k : Nibble) : (s.storeBg0 k).iota = s.iota := rfl
@[simp] theorem storeBg0_bg0 (k : Nibble) : (s.storeBg0 k).bg0 = k := rfl
@[simp] theorem storeBg0_fb (k : Nibble) : (s.storeBg0 k).fb = s.fb := rfl
@[simp] theorem storeBg0_fault (k : Nibble) : (s.storeBg0 k).fault = s.fault := rfl
@[simp] theorem storeBg0_diag (k : Nibble) : (s.storeBg0 k).diag = s.diag := rfl
@[simp] theorem storeBg0_requests (k : Nibble) : (s.storeBg0 k).requests = s.requests := rfl
@[simp] theorem storeBg0_cursorVisible (k : Nibble) : (s.storeBg0 k).cursorVisible = s.cursorVisible := rfl
@[simp] theorem storeBg0_rdata (k : Nibble) : (s.storeBg0 k).rdata = s.rdata := rfl
@[simp] theorem storeBg0_sel (k : Nibble) : (s.storeBg0 k).sel = s.sel := rfl
@[simp] theorem storeBg0_diagOut (k : Nibble) : (s.storeBg0 k).diagOut = s.diagOut := rfl
@[simp] theorem storeBg0_ramByte (k : Nibble) (x : Addr) : (s.storeBg0 k).ramByte x = s.ramByte x := rfl
@[simp] theorem storeBg0_colorCell (k : Nibble) (x : BitVec 10) : (s.storeBg0 k).colorCell x = s.colorCell x := rfl
@[simp] theorem storeBg0_iotaByte (k : Nibble) (x : BitVec 4) : (s.storeBg0 k).iotaByte x = s.iotaByte x := rfl
@[simp] theorem storeBg0_shadowByte (k : Nibble) (x : BitVec 12) : (s.storeBg0 k).shadowByte x = s.shadowByte x := rfl
@[simp] theorem storeBg0_bank (k : Nibble) : (s.storeBg0 k).bank = s.bank := rfl

/-! `State.storeFb` -/

@[simp] theorem storeFb_cfg (f : Framebuffer) : (s.storeFb f).cfg = s.cfg := rfl
@[simp] theorem storeFb_ram (f : Framebuffer) : (s.storeFb f).ram = s.ram := rfl
@[simp] theorem storeFb_colorRam (f : Framebuffer) : (s.storeFb f).colorRam = s.colorRam := rfl
@[simp] theorem storeFb_shadowIO (f : Framebuffer) : (s.storeFb f).shadowIO = s.shadowIO := rfl
@[simp] theorem storeFb_iota (f : Framebuffer) : (s.storeFb f).iota = s.iota := rfl
@[simp] theorem storeFb_bg0 (f : Framebuffer) : (s.storeFb f).bg0 = s.bg0 := rfl
@[simp] theorem storeFb_fb (f : Framebuffer) : (s.storeFb f).fb = some f := rfl
@[simp] theorem storeFb_fault (f : Framebuffer) : (s.storeFb f).fault = s.fault := rfl
@[simp] theorem storeFb_diag (f : Framebuffer) : (s.storeFb f).diag = s.diag := rfl
@[simp] theorem storeFb_requests (f : Framebuffer) : (s.storeFb f).requests = s.requests := rfl
@[simp] theorem storeFb_cursorVisible (f : Framebuffer) : (s.storeFb f).cursorVisible = s.cursorVisible := rfl
@[simp] theorem storeFb_rdata (f : Framebuffer) : (s.storeFb f).rdata = s.rdata := rfl
@[simp] theorem storeFb_sel (f : Framebuffer) : (s.storeFb f).sel = s.sel := rfl
@[simp] theorem storeFb_diagOut (f : Framebuffer) : (s.storeFb f).diagOut = s.diagOut := rfl
@[simp] theorem storeFb_ramByte (f : Framebuffer) (x : Addr) : (s.storeFb f).ramByte x = s.ramByte x := rfl
@[simp] theorem storeFb_colorCell (f : Framebuffer) (x : BitVec 10) : (s.storeFb f).colorCell x = s.colorCell x := rfl
@[simp] theorem storeFb_iotaByte (f : Framebuffer) (x : BitVec 4) : (s.storeFb f).iotaByte x = s.iotaByte x := rfl
@[simp] theorem storeFb_shadowByte (f : Framebuffer) (x : BitVec 12) : (s.storeFb f).shadowByte x = s.shadowByte x := rfl
@[simp] theorem storeFb_bank (f : Framebuffer) : (s.storeFb f).bank = s.bank := rfl

/-! `State.capture` -/

@[simp] theorem capture_cfg (a : Addr) (v : Byte) : (s.capture a v).cfg = s.cfg := rfl
@[simp] theorem capture_ram (a : Addr) (v : Byte) : (s.capture a v).ram = s.ram := rfl
@[simp] theorem capture_colorRam (a : Addr) (v : Byte) : (s.capture a v).colorRam = s.colorRam := rfl
@[simp] theorem capture_shadowIO (a : Addr) (v : Byte) : (s.capture a v).shadowIO = Memory.write s.shadowIO (windowIndex a).toNat v := rfl
@[simp] theorem capture_iota (a : Addr) (v : Byte) : (s.capture a v).iota = s.iota := rfl
@[simp] theorem capture_bg0 (a : Addr) (v : Byte) : (s.capture a v).bg0 = s.bg0 := rfl
@[simp] theorem capture_fb (a : Addr) (v : Byte) : (s.capture a v).fb = s.fb := rfl
@[simp] theorem capture_fault (a : Addr) (v : Byte) : (s.capture a v).fault = s.fault := rfl
@[simp] theorem capture_diag (a : Addr) (v : Byte) : (s.capture a v).diag = s.diag := rfl
@[simp] theorem capture_requests (a : Addr) (v : Byte) : (s.capture a v).requests = s.requests := rfl
@[simp] theorem capture_cursorVisible (a : Addr) (v : Byte) : (s.capture a v).cursorVisible = s.cursorVisible := rfl
@[simp] theorem capture_rdata (a : Addr) (v : Byte) : (s.capture a v).rdata = s.rdata := rfl
@[simp] theorem capture_sel (a : Addr) (v : Byte) : (s.capture a v).sel = s.sel := rfl
@[simp] theorem capture_diagOut (a : Addr) (v : Byte) : (s.capture a v).diagOut = s.diagOut := rfl
@[simp] theorem capture_ramByte (a : Addr) (v : Byte) (x : Addr) : (s.capture a v).ramByte x = s.ramByte x := rfl
@[simp] theorem capture_colorCell (a : Addr) (v : Byte) (x : BitVec 10) : (s.capture a v).colorCell x = s.colorCell x := rfl
@[simp] theorem capture_iotaByte (a : Addr) (v : Byte) (x : BitVec 4) : (s.capture a v).iotaByte x = s.iotaByte x := rfl
@[simp] theorem capture_bank (a : Addr) (v : Byte) : (s.capture a v).bank = s.bank := rfl

/-! `State.respond` -/

@[simp] theorem respond_cfg (t : Target) (v : Byte) : (s.respond t v).cfg = s.cfg := rfl
@[simp] theorem respond_ram (t : Target) (v : Byte) : (s.respond t v).ram = s.ram := rfl
@[simp] theorem respond_colorRam (t : Target) (v : Byte) : (s.respond t v).colorRam = s.colorRam := rfl
@[simp] theorem respond_shadowIO (t : Target) (v : Byte) : (s.respond t v).shadowIO = s.shadowIO := rfl
@[simp] theorem respond_iota (t : Target) (v : Byte) : (s.respond t v).iota = s.iota := rfl
@[simp] theorem respond_bg0 (t : Target) (v : Byte) : (s.respond t v).bg0 = s.bg0 := rfl
@[simp] theorem respond_fb (t : Target) (v : Byte) : (s.respond t v).fb = s.fb := rfl
@[simp] theorem respond_fault (t : Target) (v : Byte) : (s.respond t v).fault = s.fault := rfl
@[simp] theorem respond_diag (t : Target) (v : Byte) : (s.respond t v).diag = s.diag := rfl
@[simp] theorem respond_requests (t : Target) (v : Byte) : (s.respond t v).requests = s.requests := rfl
@[simp] theorem respond_cursorVisible (t : Target) (v : Byte) : (s.respond t v).cursorVisible = s.cursorVisible := rfl
@[simp] theorem respond_rdata (t : Target) (v : Byte) : (s.respond t v).rdata = some v := rfl
@[simp] theorem respond_sel (t : Target) (v : Byte) : (s.respond t v).sel = some t := rfl
@[simp] theorem respond_diagOut (t : Target) (v : Byte) : (s.respond t v).diagOut = none := rfl
@[simp] theorem respond_ramByte (t : Target) (v : Byte) (x : Addr) : (s.respond t v).ramByte x = s.ramByte x := rfl
@[simp] theorem respond_colorCell (t : Target) (v : Byte) (x : BitVec 10) : (s.respond t v).colorCell x = s.colorCell x := rfl
@[simp] theorem respond_iotaByte (t : Target) (v : Byte) (x : BitVec 4) : (s.respond t v).iotaByte x = s.iotaByte x := rfl
@[simp] theorem respond_shadowByte (t : Target) (v : Byte) (x : BitVec 12) : (s.respond t v).shadowByte x = s.shadowByte x := rfl
@[simp] theorem respond_bank (t : Target) (v : Byte) : (s.respond t v).bank = s.bank := rfl

/-! `State.accept` -/

@[simp] theorem accept_cfg (t : Target) : (s.accept t).cfg = s.cfg := rfl
@[simp] theorem accept_ram (t : Target) : (s.accept t).ram = s.ram := rfl
@[simp] theorem accept_colorRam (t : Target) : (s.accept t).colorRam = s.colorRam := rfl
@[simp] theorem accept_shadowIO (t : Target) : (s.accept t).shadowIO = s.shadowIO := rfl
@[simp] theorem accept_iota (t : Target) : (s.accept t).iota = s.iota := rfl
@[simp] theorem accept_bg0 (t : Target) : (s.accept t).bg0 = s.bg0 := rfl
@[simp] theorem accept_fb (t : Target) : (s.accept t).fb = s.fb := rfl
@[simp] theorem accept_fault (t : Target) : (s.accept t).fault = s.fault := rfl
@[simp] theorem accept_diag (t : Target) : (s.accept t).diag = s.diag := rfl
@[simp] theorem accept_requests (t : Target) : (s.accept t).requests = s.requests := rfl
@[simp] theorem accept_cursorVisible (t : Target) : (s.accept t).cursorVisible = s.cursorVisible := rfl
@[simp] theorem accept_rdata (t : Target) : (s.accept t).rdata = none := rfl
@[simp] theorem accept_sel (t : Target) : (s.accept t).sel = some t := rfl
@[simp] theorem accept_diagOut (t : Target) : (s.accept t).diagOut = none := rfl
@[simp] theorem accept_ramByte (t : Target) (x : Addr) : (s.accept t).ramByte x = s.ramByte x := rfl
@[simp] theorem accept_colorCell (t : Target) (x : BitVec 10) : (s.accept t).colorCell x = s.colorCell x := rfl
@[simp] theorem accept_iotaByte (t : Target) (x : BitVec 4) : (s.accept t).iotaByte x = s.iotaByte x := rfl
@[simp] theorem accept_shadowByte (t : Target) (x : BitVec 12) : (s.accept t).shadowByte x = s.shadowByte x := rfl
@[simp] theorem accept_bank (t : Target) : (s.accept t).bank = s.bank := rfl

/-! `State.quiet` -/

@[simp] theorem quiet_cfg : (s.quiet).cfg = s.cfg := rfl
@[simp] theorem quiet_ram : (s.quiet).ram = s.ram := rfl
@[simp] theorem quiet_colorRam : (s.quiet).colorRam = s.colorRam := rfl
@[simp] theorem quiet_shadowIO : (s.quiet).shadowIO = s.shadowIO := rfl
@[simp] theorem quiet_iota : (s.quiet).iota = s.iota := rfl
@[simp] theorem quiet_bg0 : (s.quiet).bg0 = s.bg0 := rfl
@[simp] theorem quiet_fb : (s.quiet).fb = s.fb := rfl
@[simp] theorem quiet_fault : (s.quiet).fault = s.fault := rfl
@[simp] theorem quiet_diag : (s.quiet).diag = s.diag := rfl
@[simp] theorem quiet_requests : (s.quiet).requests = s.requests := rfl
@[simp] theorem quiet_cursorVisible : (s.quiet).cursorVisible = s.cursorVisible := rfl
@[simp] theorem quiet_rdata : (s.quiet).rdata = none := rfl
@[simp] theorem quiet_sel : (s.quiet).sel = none := rfl
@[simp] theorem quiet_diagOut : (s.quiet).diagOut = none := rfl
@[simp] theorem quiet_ramByte (x : Addr) : (s.quiet).ramByte x = s.ramByte x := rfl
@[simp] theorem quiet_colorCell (x : BitVec 10) : (s.quiet).colorCell x = s.colorCell x := rfl
@[simp] theorem quiet_iotaByte (x : BitVec 4) : (s.quiet).iotaByte x = s.iotaByte x := rfl
@[simp] theorem quiet_shadowByte (x : BitVec 12) : (s.quiet).shadowByte x = s.shadowByte x := rfl
@[simp] theorem quiet_bank : (s.quiet).bank = s.bank := rfl

/-! `State.emit` -/

@[simp] theorem emit_cfg (k : DiagKind) (a : Addr) (v : Byte) : (s.emit k a v).cfg = s.cfg := rfl
@[simp] theorem emit_ram (k : DiagKind) (a : Addr) (v : Byte) : (s.emit k a v).ram = s.ram := rfl
@[simp] theorem emit_colorRam (k : DiagKind) (a : Addr) (v : Byte) : (s.emit k a v).colorRam = s.colorRam := rfl
@[simp] theorem emit_shadowIO (k : DiagKind) (a : Addr) (v : Byte) : (s.emit k a v).shadowIO = s.shadowIO := rfl
@[simp] theorem emit_iota (k : DiagKind) (a : Addr) (v : Byte) : (s.emit k a v).iota = s.iota := rfl
@[simp] theorem emit_bg0 (k : DiagKind) (a : Addr) (v : Byte) : (s.emit k a v).bg0 = s.bg0 := rfl
@[simp] theorem emit_fb (k : DiagKind) (a : Addr) (v : Byte) : (s.emit k a v).fb = s.fb := rfl
@[simp] theorem emit_fault (k : DiagKind) (a : Addr) (v : Byte) : (s.emit k a v).fault = s.fault := rfl
@[simp] theorem emit_diag (k : DiagKind) (a : Addr) (v : Byte) : (s.emit k a v).diag = s.diag ++ [⟨k, a, v⟩] := rfl
@[simp] theorem emit_requests (k : DiagKind) (a : Addr) (v : Byte) : (s.emit k a v).requests = s.requests := rfl
@[simp] theorem emit_cursorVisible (k : DiagKind) (a : Addr) (v : Byte) : (s.emit k a v).cursorVisible = s.cursorVisible := rfl
@[simp] theorem emit_rdata (k : DiagKind) (a : Addr) (v : Byte) : (s.emit k a v).rdata = s.rdata := rfl
@[simp] theorem emit_sel (k : DiagKind) (a : Addr) (v : Byte) : (s.emit k a v).sel = s.sel := rfl
@[simp] theorem emit_diagOut (k : DiagKind) (a : Addr) (v : Byte) : (s.emit k a v).diagOut = some ⟨k, a, v⟩ := rfl
@[simp] theorem emit_ramByte (k : DiagKind) (a : Addr) (v : Byte) (x : Addr) : (s.emit k a v).ramByte x = s.ramByte x := rfl
@[simp] theorem emit_colorCell (k : DiagKind) (a : Addr) (v : Byte) (x : BitVec 10) : (s.emit k a v).colorCell x = s.colorCell x := rfl
@[simp] theorem emit_iotaByte (k : DiagKind) (a : Addr) (v : Byte) (x : BitVec 4) : (s.emit k a v).iotaByte x = s.iotaByte x := rfl
@[simp] theorem emit_shadowByte (k : DiagKind) (a : Addr) (v : Byte) (x : BitVec 12) : (s.emit k a v).shadowByte x = s.shadowByte x := rfl
@[simp] theorem emit_bank (k : DiagKind) (a : Addr) (v : Byte) : (s.emit k a v).bank = s.bank := rfl

/-! `State.raise` -/

@[simp] theorem raise_cfg (c : FaultCode) (a : Addr) (v : Byte) : (s.raise c a v).cfg = s.cfg := rfl
@[simp] theorem raise_ram (c : FaultCode) (a : Addr) (v : Byte) : (s.raise c a v).ram = s.ram := rfl
@[simp] theorem raise_colorRam (c : FaultCode) (a : Addr) (v : Byte) : (s.raise c a v).colorRam = s.colorRam := rfl
@[simp] theorem raise_shadowIO (c : FaultCode) (a : Addr) (v : Byte) : (s.raise c a v).shadowIO = s.shadowIO := rfl
@[simp] theorem raise_iota (c : FaultCode) (a : Addr) (v : Byte) : (s.raise c a v).iota = s.iota := rfl
@[simp] theorem raise_bg0 (c : FaultCode) (a : Addr) (v : Byte) : (s.raise c a v).bg0 = s.bg0 := rfl
@[simp] theorem raise_fb (c : FaultCode) (a : Addr) (v : Byte) : (s.raise c a v).fb = s.fb := rfl
@[simp] theorem raise_fault (c : FaultCode) (a : Addr) (v : Byte) : (s.raise c a v).fault = some ⟨c, a, v⟩ := rfl
@[simp] theorem raise_diag (c : FaultCode) (a : Addr) (v : Byte) : (s.raise c a v).diag = s.diag := rfl
@[simp] theorem raise_requests (c : FaultCode) (a : Addr) (v : Byte) : (s.raise c a v).requests = s.requests := rfl
@[simp] theorem raise_cursorVisible (c : FaultCode) (a : Addr) (v : Byte) : (s.raise c a v).cursorVisible = s.cursorVisible := rfl
@[simp] theorem raise_rdata (c : FaultCode) (a : Addr) (v : Byte) : (s.raise c a v).rdata = s.rdata := rfl
@[simp] theorem raise_sel (c : FaultCode) (a : Addr) (v : Byte) : (s.raise c a v).sel = s.sel := rfl
@[simp] theorem raise_diagOut (c : FaultCode) (a : Addr) (v : Byte) : (s.raise c a v).diagOut = s.diagOut := rfl
@[simp] theorem raise_ramByte (c : FaultCode) (a : Addr) (v : Byte) (x : Addr) : (s.raise c a v).ramByte x = s.ramByte x := rfl
@[simp] theorem raise_colorCell (c : FaultCode) (a : Addr) (v : Byte) (x : BitVec 10) : (s.raise c a v).colorCell x = s.colorCell x := rfl
@[simp] theorem raise_iotaByte (c : FaultCode) (a : Addr) (v : Byte) (x : BitVec 4) : (s.raise c a v).iotaByte x = s.iotaByte x := rfl
@[simp] theorem raise_shadowByte (c : FaultCode) (a : Addr) (v : Byte) (x : BitVec 12) : (s.raise c a v).shadowByte x = s.shadowByte x := rfl
@[simp] theorem raise_bank (c : FaultCode) (a : Addr) (v : Byte) : (s.raise c a v).bank = s.bank := rfl

/-! `State.restart`: every state element of R19 at its reset value, the inputs untouched (R136). -/

@[simp] theorem restart_cfg : s.restart.cfg = s.cfg := rfl
@[simp] theorem restart_ram : s.restart.ram = [(1, s.cfg.ram1Reset)] := rfl
@[simp] theorem restart_colorRam : s.restart.colorRam = Vector.replicate 1024 s.cfg.colorReset := rfl
@[simp] theorem restart_shadowIO : s.restart.shadowIO = [] := rfl
@[simp] theorem restart_iota : s.restart.iota = Vector.replicate 16 0 := rfl
@[simp] theorem restart_bg0 : s.restart.bg0 = s.cfg.bg0Reset := rfl
@[simp] theorem restart_fb : s.restart.fb = none := rfl
@[simp] theorem restart_fault : s.restart.fault = none := rfl
@[simp] theorem restart_diag : s.restart.diag = [] := rfl
@[simp] theorem restart_requests : s.restart.requests = s.requests := rfl
@[simp] theorem restart_cursorVisible : s.restart.cursorVisible = s.cursorVisible := rfl
@[simp] theorem restart_rdata : s.restart.rdata = none := rfl
@[simp] theorem restart_sel : s.restart.sel = none := rfl
@[simp] theorem restart_diagOut : s.restart.diagOut = none := rfl

/-! The stores read back. -/

@[simp] theorem storeColor_colorCell (i j : BitVec 10) (k : Nibble) :
    (s.storeColor i k).colorCell j = if j = i then k else s.colorCell j := by
  simp only [State.colorCell, storeColor_colorRam, Vector.getElem_set]
  by_cases h : j = i
  · simp [h]
  · have : ¬ i.toNat = j.toNat := fun e => h (BitVec.eq_of_toNat_eq e.symm)
    simp [h, this]

@[simp] theorem storeIota_iotaByte (i j : BitVec 4) (v : Byte) :
    (s.storeIota i v).iotaByte j = if j = i then v else s.iotaByte j := by
  simp only [State.iotaByte, storeIota_iota, Vector.getElem_set]
  by_cases h : j = i
  · simp [h]
  · have : ¬ i.toNat = j.toNat := fun e => h (BitVec.eq_of_toNat_eq e.symm)
    simp [h, this]

/-- A stub read is the answer, then perhaps one diagnostic: the fields it can touch are these four. -/
theorem respondStub_eq (t : Target) (stub : Stub) (a : Addr) :
    s.respondStub t stub a = { s with
      rdata := some (stubRd stub), sel := some t,
      diag := if stubLogs stub then s.diag ++ [⟨.unimplementedRegisterRead, a, 0⟩] else s.diag,
      diagOut := if stubLogs stub then some ⟨.unimplementedRegisterRead, a, 0⟩ else none } := by
  cases h : stubLogs stub <;> simp [State.respondStub, h, State.respond, State.emit]

/-! `State.respondStub` -/

@[simp] theorem respondStub_cfg (t : Target) (stub : Stub) (a : Addr) :
    (s.respondStub t stub a).cfg = s.cfg := by rw [respondStub_eq]
@[simp] theorem respondStub_ram (t : Target) (stub : Stub) (a : Addr) :
    (s.respondStub t stub a).ram = s.ram := by rw [respondStub_eq]
@[simp] theorem respondStub_colorRam (t : Target) (stub : Stub) (a : Addr) :
    (s.respondStub t stub a).colorRam = s.colorRam := by rw [respondStub_eq]
@[simp] theorem respondStub_shadowIO (t : Target) (stub : Stub) (a : Addr) :
    (s.respondStub t stub a).shadowIO = s.shadowIO := by rw [respondStub_eq]
@[simp] theorem respondStub_iota (t : Target) (stub : Stub) (a : Addr) :
    (s.respondStub t stub a).iota = s.iota := by rw [respondStub_eq]
@[simp] theorem respondStub_bg0 (t : Target) (stub : Stub) (a : Addr) :
    (s.respondStub t stub a).bg0 = s.bg0 := by rw [respondStub_eq]
@[simp] theorem respondStub_fb (t : Target) (stub : Stub) (a : Addr) :
    (s.respondStub t stub a).fb = s.fb := by rw [respondStub_eq]
@[simp] theorem respondStub_fault (t : Target) (stub : Stub) (a : Addr) :
    (s.respondStub t stub a).fault = s.fault := by rw [respondStub_eq]
@[simp] theorem respondStub_diag (t : Target) (stub : Stub) (a : Addr) :
    (s.respondStub t stub a).diag = if stubLogs stub then s.diag ++ [⟨.unimplementedRegisterRead, a, 0⟩] else s.diag := by rw [respondStub_eq]
@[simp] theorem respondStub_requests (t : Target) (stub : Stub) (a : Addr) :
    (s.respondStub t stub a).requests = s.requests := by rw [respondStub_eq]
@[simp] theorem respondStub_cursorVisible (t : Target) (stub : Stub) (a : Addr) :
    (s.respondStub t stub a).cursorVisible = s.cursorVisible := by rw [respondStub_eq]
@[simp] theorem respondStub_rdata (t : Target) (stub : Stub) (a : Addr) :
    (s.respondStub t stub a).rdata = some (stubRd stub) := by rw [respondStub_eq]
@[simp] theorem respondStub_sel (t : Target) (stub : Stub) (a : Addr) :
    (s.respondStub t stub a).sel = some t := by rw [respondStub_eq]
@[simp] theorem respondStub_diagOut (t : Target) (stub : Stub) (a : Addr) :
    (s.respondStub t stub a).diagOut = if stubLogs stub then some ⟨.unimplementedRegisterRead, a, 0⟩ else none := by rw [respondStub_eq]
@[simp] theorem respondStub_ramByte (t : Target) (stub : Stub) (a : Addr) (x : Addr) :
    (s.respondStub t stub a).ramByte x = s.ramByte x := by rw [respondStub_eq]; rfl
@[simp] theorem respondStub_colorCell (t : Target) (stub : Stub) (a : Addr) (x : BitVec 10) :
    (s.respondStub t stub a).colorCell x = s.colorCell x := by rw [respondStub_eq]; rfl
@[simp] theorem respondStub_iotaByte (t : Target) (stub : Stub) (a : Addr) (x : BitVec 4) :
    (s.respondStub t stub a).iotaByte x = s.iotaByte x := by rw [respondStub_eq]; rfl
@[simp] theorem respondStub_shadowByte (t : Target) (stub : Stub) (a : Addr) (x : BitVec 12) :
    (s.respondStub t stub a).shadowByte x = s.shadowByte x := by rw [respondStub_eq]; rfl
@[simp] theorem respondStub_bank (t : Target) (stub : Stub) (a : Addr) :
    (s.respondStub t stub a).bank = s.bank := by rw [respondStub_eq]; rfl

/-- The common part of a register-path write, field by field. -/
theorem registerWrite_eq (t : Target) (a : Addr) (v : Byte) :
    s.registerWrite t a v = { s with
      shadowIO := Memory.write s.shadowIO (windowIndex a).toNat v, rdata := none, sel := some t, diagOut := none } := rfl

/-! `State.registerWrite` -/

@[simp] theorem registerWrite_cfg (t : Target) (a : Addr) (v : Byte) : (s.registerWrite t a v).cfg = s.cfg := rfl
@[simp] theorem registerWrite_ram (t : Target) (a : Addr) (v : Byte) : (s.registerWrite t a v).ram = s.ram := rfl
@[simp] theorem registerWrite_colorRam (t : Target) (a : Addr) (v : Byte) : (s.registerWrite t a v).colorRam = s.colorRam := rfl
@[simp] theorem registerWrite_shadowIO (t : Target) (a : Addr) (v : Byte) : (s.registerWrite t a v).shadowIO = Memory.write s.shadowIO (windowIndex a).toNat v := rfl
@[simp] theorem registerWrite_iota (t : Target) (a : Addr) (v : Byte) : (s.registerWrite t a v).iota = s.iota := rfl
@[simp] theorem registerWrite_bg0 (t : Target) (a : Addr) (v : Byte) : (s.registerWrite t a v).bg0 = s.bg0 := rfl
@[simp] theorem registerWrite_fb (t : Target) (a : Addr) (v : Byte) : (s.registerWrite t a v).fb = s.fb := rfl
@[simp] theorem registerWrite_fault (t : Target) (a : Addr) (v : Byte) : (s.registerWrite t a v).fault = s.fault := rfl
@[simp] theorem registerWrite_diag (t : Target) (a : Addr) (v : Byte) : (s.registerWrite t a v).diag = s.diag := rfl
@[simp] theorem registerWrite_requests (t : Target) (a : Addr) (v : Byte) : (s.registerWrite t a v).requests = s.requests := rfl
@[simp] theorem registerWrite_cursorVisible (t : Target) (a : Addr) (v : Byte) : (s.registerWrite t a v).cursorVisible = s.cursorVisible := rfl
@[simp] theorem registerWrite_rdata (t : Target) (a : Addr) (v : Byte) : (s.registerWrite t a v).rdata = none := rfl
@[simp] theorem registerWrite_sel (t : Target) (a : Addr) (v : Byte) : (s.registerWrite t a v).sel = some t := rfl
@[simp] theorem registerWrite_diagOut (t : Target) (a : Addr) (v : Byte) : (s.registerWrite t a v).diagOut = none := rfl
@[simp] theorem registerWrite_ramByte (t : Target) (a : Addr) (v : Byte) (x : Addr) : (s.registerWrite t a v).ramByte x = s.ramByte x := rfl
@[simp] theorem registerWrite_colorCell (t : Target) (a : Addr) (v : Byte) (x : BitVec 10) : (s.registerWrite t a v).colorCell x = s.colorCell x := rfl
@[simp] theorem registerWrite_iotaByte (t : Target) (a : Addr) (v : Byte) (x : BitVec 4) : (s.registerWrite t a v).iotaByte x = s.iotaByte x := rfl
@[simp] theorem registerWrite_bank (t : Target) (a : Addr) (v : Byte) : (s.registerWrite t a v).bank = s.bank := rfl

end Sys2Proof.Machine
end

