-- ==== Sys2Proof/Laws/Memory.lean ====
section
/-! SUPPORT. The laws of the byte stores: a read after a write, and that writes keep the canonical form. -/

namespace Sys2Proof.Machine

/-- From index `lo` on, every index below `lo` is unlisted. -/
theorem Memory.read_below {size : Nat} :
    ∀ {m : Memory} {lo a : Nat}, Memory.wfFrom size lo m = true → a < lo → Memory.read m a = unlistedByte
  | [], _, _, _, _ => rfl
  | (k, v) :: rest, lo, a, h, ha => by
    simp only [Memory.wfFrom, Bool.and_eq_true, decide_eq_true_eq] at h
    have hk : k ≠ a := by omega
    simp only [Memory.read, if_neg hk]
    exact Memory.read_below h.2 (by omega)

/-- A canonical form from `lo` on is one from any lower index on. -/
theorem Memory.wfFrom_mono {size lo lo' : Nat} {m : Memory} (h : Memory.wfFrom size lo m = true) (hl : lo' ≤ lo) :
    Memory.wfFrom size lo' m = true := by
  cases m with
  | nil => rfl
  | cons kv rest =>
    obtain ⟨k, v⟩ := kv
    simp only [Memory.wfFrom, Bool.and_eq_true, decide_eq_true_eq] at h ⊢
    exact ⟨⟨⟨by omega, h.1.1.2⟩, h.1.2⟩, h.2⟩

/-- A write leaves every other index alone, in any store. -/
theorem Memory.read_write_ne (m : Memory) {a b : Nat} (v : Byte) (hab : b ≠ a) :
    Memory.read (Memory.write m a v) b = Memory.read m b := by
  induction m with
  | nil =>
    simp only [Memory.write]
    split
    · rfl
    · simp [Memory.read, hab.symm]
  | cons kv rest ih =>
    obtain ⟨k, w⟩ := kv
    simp only [Memory.write]
    split
    · split
      · rfl
      · simp [Memory.read, hab.symm]
    · split
      · rename_i hak
        subst hak
        split <;> simp [Memory.read, hab.symm]
      · simp [Memory.read, ih]

/-- A read of the index just written gives the byte written. -/
theorem Memory.read_write_same {size : Nat} :
    ∀ {m : Memory} {lo a : Nat} (v : Byte), Memory.wfFrom size lo m = true → Memory.read (Memory.write m a v) a = v
  | [], _, a, v, _ => by
    simp only [Memory.write]
    split
    · rename_i hv; rw [hv]; rfl
    · simp [Memory.read]
  | (k, w) :: rest, lo, a, v, h => by
    simp only [Memory.wfFrom, Bool.and_eq_true, decide_eq_true_eq] at h
    simp only [Memory.write]
    split
    · rename_i hak
      split
      · rename_i hv
        have hk : k ≠ a := by omega
        simp only [Memory.read, if_neg hk, hv]
        exact Memory.read_below h.2 (by omega)
      · simp [Memory.read]
    · split
      · rename_i hak
        split
        · rename_i hv
          rw [hv]
          exact Memory.read_below h.2 (by omega)
        · simp [Memory.read]
      · rename_i hak
        simp only [Memory.read, if_neg (Ne.symm hak)]
        exact Memory.read_write_same v h.2

/-- Read after write, in a store in canonical form. -/
theorem Memory.read_write {size : Nat} {m : Memory} (h : Memory.wf size m = true) (a b : Nat) (v : Byte) :
    Memory.read (Memory.write m a v) b = if b = a then v else Memory.read m b := by
  split
  · rename_i hab; subst hab; exact Memory.read_write_same v h
  · rename_i hab; exact Memory.read_write_ne m v hab

/-- A write keeps the canonical form from `lo` on. -/
theorem Memory.wfFrom_write {size : Nat} :
    ∀ {m : Memory} {lo a : Nat} (v : Byte), Memory.wfFrom size lo m = true → lo ≤ a → a < size →
      Memory.wfFrom size lo (Memory.write m a v) = true
  | [], lo, a, v, _, hla, has => by
    simp only [Memory.write]
    split
    · rfl
    · rename_i hv; simp [Memory.wfFrom, hla, has, hv]
  | (k, w) :: rest, lo, a, v, h, hla, has => by
    have h' := h
    simp only [Memory.wfFrom, Bool.and_eq_true, decide_eq_true_eq] at h'
    simp only [Memory.write]
    split
    · split
      · exact h
      · rename_i hak hv
        simp only [Memory.wfFrom, Bool.and_eq_true, decide_eq_true_eq, bne_iff_ne]
        exact ⟨⟨⟨hla, has⟩, hv⟩, ⟨⟨by omega, h'.1.1.2⟩, by simpa using h'.1.2⟩, h'.2⟩
    · split
      · rename_i hak
        split
        · exact Memory.wfFrom_mono h'.2 (by omega)
        · rename_i hv
          subst hak
          simp only [Memory.wfFrom, Bool.and_eq_true, decide_eq_true_eq, bne_iff_ne]
          exact ⟨⟨⟨hla, has⟩, hv⟩, h'.2⟩
      · simp only [Memory.wfFrom, Bool.and_eq_true, decide_eq_true_eq]
        exact ⟨h'.1, Memory.wfFrom_write v h'.2 (by omega) has⟩

/-- A write inside the store keeps the canonical form. -/
theorem Memory.wf_write {size : Nat} {m : Memory} (h : Memory.wf size m = true) {a : Nat} (ha : a < size) (v : Byte) :
    Memory.wf size (Memory.write m a v) = true :=
  Memory.wfFrom_write v h (Nat.zero_le _) ha

/-- The memory of a state after reset is in canonical form: its one listed byte is not 0, its low three bits being 7. -/
theorem resetOf_ram_wf (c : Cfg) (hc : c.valid = true) : Memory.wf 65536 (State.resetOf c).ram = true := by
  have h7 : c.ram1Reset.extractLsb' 0 3 = 7 := by
    simp only [Cfg.valid, Bool.and_eq_true, beq_iff_eq] at hc
    exact hc.1.1.1.1.1.1.1
  have hne : c.ram1Reset ≠ unlistedByte := fun e => by rw [e] at h7; exact absurd h7 (by decide)
  simp [State.resetOf, Memory.wf, Memory.wfFrom, hne]

/-! The state's stores. -/

/-- A store to `ram` read back through `ramByte`. -/
theorem storeRam_ramByte {s : State} (h : Memory.wf 65536 s.ram = true) (a b : Addr) (v : Byte) :
    (s.storeRam a v).ramByte b = if b = a then v else s.ramByte b := by
  simp only [State.ramByte, storeRam_ram, Memory.read_write h]
  by_cases e : b = a
  · simp [e]
  · have : ¬ b.toNat = a.toNat := fun x => e (BitVec.eq_of_toNat_eq x)
    simp [e, this]

/-- The shadow capture read back through `shadowByte`. -/
theorem capture_shadowByte {s : State} (h : Memory.wf 4096 s.shadowIO = true) (a : Addr) (v : Byte) (i : BitVec 12) :
    (s.capture a v).shadowByte i = if i = windowIndex a then v else s.shadowByte i := by
  simp only [State.shadowByte, capture_shadowIO, Memory.read_write h]
  by_cases e : i = windowIndex a
  · simp [e]
  · have : ¬ i.toNat = (windowIndex a).toNat := fun x => e (BitVec.eq_of_toNat_eq x)
    simp [e, this]

theorem storeRam_wf {s : State} (h : Memory.wf 65536 s.ram = true) (a : Addr) (v : Byte) :
    Memory.wf 65536 (s.storeRam a v).ram = true := Memory.wf_write h a.isLt v

theorem capture_wf {s : State} (h : Memory.wf 4096 s.shadowIO = true) (a : Addr) (v : Byte) :
    Memory.wf 4096 (s.capture a v).shadowIO = true := Memory.wf_write h (windowIndex a).isLt v

end Sys2Proof.Machine
end

