-- ==== Sys2Proof/Laws/Pixels.lean ====
section
/-! SUPPORT. The laws of the framebuffer: what a pixel write and a drawing loop do to each pixel, and that they keep the
framebuffer's shape and its colours. -/

namespace Sys2Proof.Machine

/-- A pixel write changes that pixel, if there is one, and no other. -/
theorem pixel?_setPixel (f : Framebuffer) (x y x' y' : Nat) (c : Colour) :
    Framebuffer.pixel? (Framebuffer.setPixel f x y c) x' y' =
      if x' = x ∧ y' = y then (Framebuffer.pixel? f x y).map (fun _ => c) else Framebuffer.pixel? f x' y' := by
  simp only [Framebuffer.pixel?, Framebuffer.setPixel, List.getElem?_modify]
  by_cases hy : y' = y
  · subst hy
    cases hrow : f[y']? with
    | none => simp
    | some row =>
      by_cases hx : x' = x
      · subst hx
        simp only [if_true, Option.map_eq_map, Option.map_some, and_self, List.getElem?_set_self']
        cases row[x']? <;> rfl
      · have hx' : ¬ x = x' := fun e => hx e.symm
        simp [hx, hx', List.getElem?_set_ne]
  · have hy' : ¬ y = y' := fun e => hy e.symm
    simp [hy, hy']

/-- The colour the last of some pixel writes gives a pixel. -/
def lastWrite (ws : List PixelWrite) (x y : Nat) : Option Colour :=
  (ws.reverse.find? (fun w => decide (w.x = x ∧ w.y = y))).map PixelWrite.colour

/-- A drawing loop gives a pixel the colour of the last write to it, and leaves the pixels it does not write. -/
theorem pixel?_paint (ws : List PixelWrite) : ∀ (f : Framebuffer) (x y : Nat),
    Framebuffer.pixel? (Framebuffer.paint f ws) x y =
      (Framebuffer.pixel? f x y).map (fun old => (lastWrite ws x y).getD old) := by
  induction ws with
  | nil => intro f x y; simp [Framebuffer.paint, lastWrite]
  | cons w rest ih =>
    intro f x y
    have step1 : Framebuffer.paint f (w :: rest) = Framebuffer.paint (Framebuffer.setPixel f w.x w.y w.colour) rest := rfl
    rw [step1, ih, pixel?_setPixel]
    simp only [lastWrite, List.reverse_cons, List.find?_append, List.find?_singleton]
    by_cases h : x = w.x ∧ y = w.y
    · obtain ⟨rfl, rfl⟩ := h
      cases Framebuffer.pixel? f w.x w.y with
      | none => simp
      | some old =>
        cases rest.reverse.find? (fun w' => decide (w'.x = w.x ∧ w'.y = w.y)) <;> simp
    · have h' : ¬ (w.x = x ∧ w.y = y) := fun e => h ⟨e.1.symm, e.2.symm⟩
      simp [h, h']

/-- A pixel that no write names keeps its colour. -/
theorem lastWrite_none {ws : List PixelWrite} {x y : Nat} (h : ∀ w ∈ ws, ¬ (w.x = x ∧ w.y = y)) : lastWrite ws x y = none := by
  unfold lastWrite
  rw [Option.map_eq_none_iff, List.find?_eq_none]
  intro w hw
  simpa using h w (List.mem_reverse.mp hw)

/-- A pixel to which all writes that name it give one colour takes that colour. -/
theorem lastWrite_some {ws : List PixelWrite} {x y : Nat} {k : Colour} (some_write : ∃ w ∈ ws, w.x = x ∧ w.y = y)
    (h : ∀ w ∈ ws, w.x = x → w.y = y → w.colour = k) : lastWrite ws x y = some k := by
  unfold lastWrite
  cases hf : ws.reverse.find? (fun w => decide (w.x = x ∧ w.y = y)) with
  | none =>
    obtain ⟨w, hw, hp⟩ := some_write
    simpa [hp] using List.find?_eq_none.mp hf w (List.mem_reverse.mpr hw)
  | some w =>
    have hw := List.mem_of_find?_eq_some hf
    have hp := List.find?_some hf
    simp only [decide_eq_true_eq] at hp
    simp [h w (List.mem_reverse.mp hw) hp.1 hp.2]

/-- Every pixel of a filled framebuffer has its colour. -/
theorem pixel?_filled {w h x y : Nat} (c : Colour) (hx : x < w) (hy : y < h) :
    Framebuffer.pixel? (Framebuffer.filled w h c) x y = some c := by
  simp [Framebuffer.pixel?, Framebuffer.filled, hx, hy]

theorem filled_shaped (w h : Nat) (c : Colour) : Framebuffer.Shaped w h (Framebuffer.filled w h c) := by
  refine ⟨by simp [Framebuffer.filled], fun row hrow => ?_⟩
  rw [(List.mem_replicate.mp hrow).2]
  simp

theorem setPixel_shaped {w h : Nat} {f : Framebuffer} (hf : Framebuffer.Shaped w h f) (x y : Nat) (c : Colour) :
    Framebuffer.Shaped w h (Framebuffer.setPixel f x y c) := by
  refine ⟨by simpa [Framebuffer.setPixel] using hf.1, fun row hrow => ?_⟩
  obtain ⟨n, hn⟩ := List.mem_iff_getElem?.mp hrow
  simp only [Framebuffer.setPixel, List.getElem?_modify] at hn
  cases hfn : f[n]? with
  | none => simp [hfn] at hn
  | some row' =>
    have hlen := hf.2 row' (List.mem_iff_getElem?.mpr ⟨n, hfn⟩)
    rw [hfn] at hn
    by_cases hyn : y = n
    · simp [hyn] at hn; rw [← hn]; simpa using hlen
    · simp [hyn] at hn; rw [← hn]; exact hlen

theorem paint_shaped {w h : Nat} (ws : List PixelWrite) :
    ∀ {f : Framebuffer}, Framebuffer.Shaped w h f → Framebuffer.Shaped w h (Framebuffer.paint f ws) := by
  induction ws with
  | nil => intro f hf; exact hf
  | cons w' rest ih => intro f hf; exact ih (setPixel_shaped hf w'.x w'.y w'.colour)

/-- The framebuffer that FRAME composes has FB_H rows of FB_W pixels. -/
theorem composeFrame_shaped (s : State) : Framebuffer.Shaped s.cfg.fbW s.cfg.fbH (composeFrame s) := by
  have hc : ∀ (b : Bool) {f : Framebuffer}, Framebuffer.Shaped s.cfg.fbW s.cfg.fbH f →
      Framebuffer.Shaped s.cfg.fbW s.cfg.fbH (cursorPass s b f) := by
    intro b f hf
    unfold cursorPass
    split
    · exact paint_shaped _ hf
    · exact hf
  exact hc true (paint_shaped _ (hc false (filled_shaped _ _ _)))

theorem filled_coloured {n : Nat} (w h : Nat) {c : Colour} (hc : c < n) : Framebuffer.Coloured n (Framebuffer.filled w h c) := by
  intro row hrow k hk
  rw [List.eq_of_mem_replicate hrow] at hk
  rwa [List.eq_of_mem_replicate hk]

theorem setPixel_coloured {n : Nat} {f : Framebuffer} (hf : Framebuffer.Coloured n f) (x y : Nat) {c : Colour} (hc : c < n) :
    Framebuffer.Coloured n (Framebuffer.setPixel f x y c) := by
  intro row hrow k hk
  obtain ⟨m, hm⟩ := List.mem_iff_getElem?.mp hrow
  simp only [Framebuffer.setPixel, List.getElem?_modify] at hm
  cases hfm : f[m]? with
  | none => simp [hfm] at hm
  | some row' =>
    have hrow' := hf row' (List.mem_iff_getElem?.mpr ⟨m, hfm⟩)
    rw [hfm] at hm
    by_cases hym : y = m
    · simp [hym] at hm
      rw [← hm] at hk
      rcases List.mem_or_eq_of_mem_set hk with h | h
      · exact hrow' k h
      · exact h ▸ hc
    · simp [hym] at hm
      exact hrow' k (hm ▸ hk)

theorem paint_coloured {n : Nat} (ws : List PixelWrite) (hw : ∀ w ∈ ws, w.colour < n) :
    ∀ {f : Framebuffer}, Framebuffer.Coloured n f → Framebuffer.Coloured n (Framebuffer.paint f ws) := by
  induction ws with
  | nil => intro f hf; exact hf
  | cons w rest ih =>
    intro f hf
    exact ih (fun v hv => hw v (List.mem_cons_of_mem _ hv)) (setPixel_coloured hf w.x w.y (hw w List.mem_cons_self))

theorem paletteColour_lt (c : Cfg) (k : Nibble) : paletteColour c k < c.colourCount := by
  unfold paletteColour
  exact Fin.isLt _

/-- A framebuffer of a shape has a pixel at exactly the positions inside it. -/
theorem shaped_pixel_isSome {w h x y : Nat} {f : Framebuffer} (hf : Framebuffer.Shaped w h f) :
    (Framebuffer.pixel? f x y).isSome = true ↔ x < w ∧ y < h := by
  unfold Framebuffer.pixel?
  cases hr : f[y]? with
  | none =>
    have := List.getElem?_eq_none_iff.mp hr
    rw [hf.1] at this
    simp
    omega
  | some row =>
    have hl := hf.2 row (List.mem_iff_getElem?.mpr ⟨y, hr⟩)
    have hy : y < f.length := (List.getElem?_eq_some_iff.mp hr).1
    rw [hf.1] at hy
    simp [hl, hy]

/-- What RENDER writes: for some cell of the grid and some pixel of it, what the body of R104's loop writes there. -/
theorem mem_renderWrites {c : Cfg} {args : RenderArgs} {w : PixelWrite} :
    w ∈ renderWrites c args ↔
      ∃ i y x, i < c.rows * c.cols ∧ y < 8 ∧ x < 8 ∧ renderPixel c args i y x = some w := by
  unfold renderWrites
  simp only [List.mem_flatMap, List.mem_filterMap, List.mem_range]
  constructor
  · rintro ⟨i, hi, y, hy, x, hx, h⟩
    exact ⟨i, y, x, hi, hy, hx, h⟩
  · rintro ⟨i, y, x, hi, hy, hx, h⟩
    exact ⟨i, hi, y, hy, x, hx, h⟩

/-- RENDER writes the palette's colours and `DEFAULT_TILE_COLOUR` and no other (R104, R105). -/
theorem renderWrites_coloured {c : Cfg} {args : RenderArgs} (hp : ∀ k, args.palette k < c.colourCount) :
    ∀ w ∈ renderWrites c args, w.colour < c.colourCount := by
  intro w hw
  obtain ⟨i, y, x, -, -, -, h⟩ := mem_renderWrites.mp hw
  unfold renderPixel foregroundColour backgroundColour? at h
  simp only at h
  split at h
  · cases h
    dsimp only
    split
    · exact hp _
    · exact Fin.isLt _
  · cases hb : args.background <;> simp only [hb] at h <;> cases h
    exact hp _

theorem cursorWrites_coloured (s : State) : ∀ w ∈ cursorWrites s, w.colour < s.cfg.colourCount := by
  intro w hw
  unfold cursorWrites at hw
  simp only at hw
  split at hw
  · simp only [List.mem_flatMap, List.mem_map] at hw
    obtain ⟨_, _, _, _, rfl⟩ := hw
    exact paletteColour_lt _ _
  · cases hw

/-- Every pixel of the framebuffer that FRAME composes is a value of the pixel type (R33, D27). -/
theorem composeFrame_coloured (s : State) : Framebuffer.Coloured s.cfg.colourCount (composeFrame s) := by
  have hc : ∀ (b : Bool) {f : Framebuffer}, Framebuffer.Coloured s.cfg.colourCount f →
      Framebuffer.Coloured s.cfg.colourCount (cursorPass s b f) := by
    intro b f hf
    unfold cursorPass
    split
    · exact paint_coloured _ (cursorWrites_coloured s) hf
    · exact hf
  exact hc true (paint_coloured _ (renderWrites_coloured fun _ => paletteColour_lt _ _)
    (hc false (filled_coloured _ _ (paletteColour_lt _ _))))

/-- Where the write for pixel `(x, y)` of cell `i` goes (R102). -/
theorem renderPixel_position {c : Cfg} {args : RenderArgs} {i y x : Nat} {w : PixelWrite}
    (h : renderPixel c args i y x = some w) :
    w.x = args.originX + 8 * (i % c.cols) + x ∧ w.y = args.originY + 8 * (i / c.cols) + y := by
  unfold renderPixel at h
  simp only at h
  split at h
  · cases h
    exact ⟨rfl, rfl⟩
  · split at h
    · cases h
      exact ⟨rfl, rfl⟩
    · cases h

end Sys2Proof.Machine
end

