-- ==== Sys2Proof/Laws/Exec.lean ====
section
/-! SUPPORT. Once and for all what an operation and a step can do: the state an admitted operation leaves (`effect`), when
`exec` answers it, and what a step that answers has decoded. Later proofs cite these and unfold no meaning. -/

namespace Sys2Proof.Machine

/-! `State.served` -/

section

variable (s : State) (r : Request) (rest : List Request)

@[simp] theorem served_cfg : (s.served r rest).cfg = s.cfg := rfl
@[simp] theorem served_ram : (s.served r rest).ram = s.ram := rfl
@[simp] theorem served_colorRam : (s.served r rest).colorRam = s.colorRam := rfl
@[simp] theorem served_shadowIO : (s.served r rest).shadowIO = s.shadowIO := rfl
@[simp] theorem served_iota : (s.served r rest).iota = s.iota := rfl
@[simp] theorem served_bg0 : (s.served r rest).bg0 = s.bg0 := rfl
@[simp] theorem served_fb : (s.served r rest).fb = s.fb := rfl
@[simp] theorem served_fault : (s.served r rest).fault = s.fault := rfl
@[simp] theorem served_diag : (s.served r rest).diag = s.diag := rfl
@[simp] theorem served_rdata : (s.served r rest).rdata = s.rdata := rfl
@[simp] theorem served_sel : (s.served r rest).sel = s.sel := rfl
@[simp] theorem served_diagOut : (s.served r rest).diagOut = s.diagOut := rfl
@[simp] theorem served_requests : (s.served r rest).requests = rest := rfl
@[simp] theorem served_cursorVisible : (s.served r rest).cursorVisible = r.cursorVisible := rfl
@[simp] theorem served_ramByte (x : Addr) : (s.served r rest).ramByte x = s.ramByte x := rfl
@[simp] theorem served_colorCell (x : BitVec 10) : (s.served r rest).colorCell x = s.colorCell x := rfl
@[simp] theorem served_iotaByte (x : BitVec 4) : (s.served r rest).iotaByte x = s.iotaByte x := rfl
@[simp] theorem served_shadowByte (x : BitVec 12) : (s.served r rest).shadowByte x = s.shadowByte x := rfl
@[simp] theorem served_bank : (s.served r rest).bank = s.bank := rfl
@[simp] theorem served_admits : (s.served r rest).Admits ↔ s.Admits := Iff.rfl

end

/-- The state that an admitted operation leaves. -/
def effect (i : Instr) (s : State) : State :=
  match i with
  | .rdRam _ a => s.respond .ram (s.ramByte a)
  | .rdBasic _ a => s.respond .basic (imageByte s.cfg.basicRom (romIndex a).toNat)
  | .rdKernal _ a => s.respond .kernal (imageByte s.cfg.kernalRom (romIndex a).toNat)
  | .rdChar _ a => s.respond .char (imageByte s.cfg.charRom (windowIndex a).toNat)
  | .rdColor _ a => s.respond .color (zextNibble (s.colorCell (cellIndex a)))
  | .rdSound _ a => s.respondStub .sound (soundStub s.cfg (soundIndex a)) a
  | .rdVideo _ a => s.respondStub .video (videoStub s.cfg (videoIndex a)) a
  | .rdIota _ a =>
    if iotaIsLive s.cfg (ioIndex a) then s.respond .iota (s.iotaByte (ioIndex a))
    else s.respondStub .iota (iotaStub s.cfg (ioIndex a)) a
  | .rdIotb _ a => s.respondStub .iotb (iotbStub s.cfg (ioIndex a)) a
  | .rdUnmapped _ a => (s.respond .unmapped (s.ramByte a)).emit .unhandledHardwareRead a 0
  | .wrRam _ a d => (s.accept .ram).storeRam a d
  | .wrColor _ a d => (s.registerWrite .color a d).storeColor (cellIndex a) (lowNibble d)
  | .wrSound _ a d => s.registerWrite .sound a d
  | .wrVideo _ a d =>
    if videoIndex a = 0x21 then (s.registerWrite .video a d).storeBg0 (lowNibble d) else s.registerWrite .video a d
  | .wrIota _ a d =>
    if iotaIsLive s.cfg (ioIndex a) then (s.registerWrite .iota a d).storeIota (ioIndex a) d
    else (s.registerWrite .iota a d).emit .unimplementedRegisterWrite a d
  | .wrIotb _ a d => (s.registerWrite .iotb a d).emit .unimplementedRegisterWrite a d
  | .wrUnmapped _ a d => (s.registerWrite .unmapped a d).raise .unknownHardwareWrite a d
  | .frame => s.quiet.storeFb (composeFrame s)
  | .reset => s.restart

/-- Every operation is its effect behind its admission. -/
theorem exec_eq (i : Instr) (s : State) :
    exec i s = if i = .reset then requireConfig s (effect i s) else whenAdmitted s (effect i s) := by
  cases i <;> rfl

/-- When an admission answers a next state. -/
theorem whenAdmitted_next {s a t : State} : whenAdmitted s a = .next t ↔ s.Admits ∧ t = a := by
  unfold whenAdmitted requireConfig State.Admits State.CfgValid State.NoFault
  cases hf : s.fault <;> cases hc : s.cfg.valid <;> simp [eq_comm]

theorem requireConfig_next {s a t : State} : requireConfig s a = .next t ↔ s.CfgValid ∧ t = a := by
  unfold requireConfig State.CfgValid
  cases hc : s.cfg.valid <;> simp [eq_comm]

/-- An admitted operation answers its effect. -/
theorem exec_of_admits {s : State} (h : s.Admits) (i : Instr) : exec i s = .next (effect i s) := by
  rw [exec_eq]
  split
  · exact requireConfig_next.mpr ⟨h.1, rfl⟩
  · exact whenAdmitted_next.mpr ⟨h, rfl⟩

/-- All that an operation which answers a next state can have done. -/
theorem exec_next {i : Instr} {s t : State} (h : exec i s = .next t) :
    s.CfgValid ∧ (i = .reset ∨ s.NoFault) ∧ t = effect i s := by
  rw [exec_eq] at h
  split at h
  · exact ⟨(requireConfig_next.mp h).1, .inl ‹_›, (requireConfig_next.mp h).2⟩
  · exact ⟨(whenAdmitted_next.mp h).1.1, .inr (whenAdmitted_next.mp h).1.2, (whenAdmitted_next.mp h).2⟩

/-- No operation answers a fault outcome: the block's fault is a latch. -/
theorem exec_ne_fault (i : Instr) (s : State) (r : Fault) : exec i s ≠ .fault r := by
  rw [exec_eq]
  unfold whenAdmitted requireConfig
  split <;> (try split) <;> (try split) <;> simp

/-- A step that answers a next state has decoded a request and run its operation. -/
theorem step_next {s t : State} (h : step s = .next t) :
    ∃ r rest i, s.requests = r :: rest ∧ decodeRequest s.bank r.word = .ok i ∧ exec i (s.served r rest) = .next t := by
  unfold step State.fetch at h
  cases hr : s.requests with
  | nil => simp [hr] at h
  | cons r rest =>
    simp only [hr] at h
    cases hd : decodeRequest s.bank r.word with
    | error e =>
      have : decodeRequest (State.bank { s with requests := rest, cursorVisible := r.cursorVisible }) r.word = .error e := hd
      simp [this] at h
    | ok i =>
      have : decodeRequest (State.bank { s with requests := rest, cursorVisible := r.cursorVisible }) r.word = .ok i := hd
      simp only [this] at h
      exact ⟨r, rest, i, rfl, hd, h⟩

end Sys2Proof.Machine
end

