-- ==== Sys2Proof/Laws/PerInstr.lean ====
section
/-! SUPPORT. Per instruction: the fields of its encoded word are where R61 and R62 put them. -/

namespace Sys2Proof

/-- The operation code of R61: 0 read, 1 write, 2 frame, 3 reset. -/
def opCodeOf : Instr → BitVec 4
  | .rdRam _ _ | .rdBasic _ _ | .rdKernal _ _ | .rdChar _ _ | .rdColor _ _ => 0
  | .rdSound _ _ | .rdVideo _ _ | .rdIota _ _ | .rdIotb _ _ | .rdUnmapped _ _ => 0
  | .wrRam _ _ _ | .wrColor _ _ _ | .wrSound _ _ _ | .wrVideo _ _ _ => 1
  | .wrIota _ _ _ | .wrIotb _ _ _ | .wrUnmapped _ _ _ => 1
  | .frame => 2
  | .reset => 3

/-- The bank operand, 0 where there is none. -/
def bankOf : Instr → Bank
  | .rdRam b _ | .rdBasic b _ | .rdKernal b _ | .rdChar b _ | .rdColor b _ => b
  | .rdSound b _ | .rdVideo b _ | .rdIota b _ | .rdIotb b _ | .rdUnmapped b _ => b
  | .wrRam b _ _ | .wrColor b _ _ | .wrSound b _ _ | .wrVideo b _ _ => b
  | .wrIota b _ _ | .wrIotb b _ _ | .wrUnmapped b _ _ => b
  | .frame | .reset => 0

/-- The address operand, 0 where there is none. -/
def addrOf : Instr → Addr
  | .rdRam _ a | .rdBasic _ a | .rdKernal _ a | .rdChar _ a | .rdColor _ a => a
  | .rdSound _ a | .rdVideo _ a | .rdIota _ a | .rdIotb _ a | .rdUnmapped _ a => a
  | .wrRam _ a _ | .wrColor _ a _ | .wrSound _ a _ | .wrVideo _ a _ => a
  | .wrIota _ a _ | .wrIotb _ a _ | .wrUnmapped _ a _ => a
  | .frame | .reset => 0

/-- The data operand, 0 where there is none. -/
def dataOf : Instr → Byte
  | .rdRam _ _ | .rdBasic _ _ | .rdKernal _ _ | .rdChar _ _ | .rdColor _ _ => 0
  | .rdSound _ _ | .rdVideo _ _ | .rdIota _ _ | .rdIotb _ _ | .rdUnmapped _ _ => 0
  | .wrRam _ _ d | .wrColor _ _ d | .wrSound _ _ d | .wrVideo _ _ d => d
  | .wrIota _ _ d | .wrIotb _ _ d | .wrUnmapped _ _ d => d
  | .frame | .reset => 0

/-- The encoded word holds the operation code, the bank, the address and the data at their places. -/
def Laws.EncodedFields.Statement (i : Instr) : Prop :=
  opField (encode i) = opCodeOf i ∧ bankField (encode i) = bankOf i ∧ addrField (encode i) = addrOf i ∧
    dataField (encode i) = dataOf i

theorem fields_mkWord (op : BitVec 4) (b : Bank) (a : Addr) (d : Byte) :
    opField (mkWord op b a d) = op ∧ bankField (mkWord op b a d) = b ∧ addrField (mkWord op b a d) = a ∧
      dataField (mkWord op b a d) = d := by simp

namespace Laws.EncodedFields

theorem rdRam (b : Bank) (a : Addr) : Statement (.rdRam b a) := fields_mkWord 0 b a 0

theorem rdBasic (b : Bank) (a : Addr) : Statement (.rdBasic b a) := fields_mkWord 0 b a 0

theorem rdKernal (b : Bank) (a : Addr) : Statement (.rdKernal b a) := fields_mkWord 0 b a 0

theorem rdChar (b : Bank) (a : Addr) : Statement (.rdChar b a) := fields_mkWord 0 b a 0

theorem rdColor (b : Bank) (a : Addr) : Statement (.rdColor b a) := fields_mkWord 0 b a 0

theorem rdSound (b : Bank) (a : Addr) : Statement (.rdSound b a) := fields_mkWord 0 b a 0

theorem rdVideo (b : Bank) (a : Addr) : Statement (.rdVideo b a) := fields_mkWord 0 b a 0

theorem rdIota (b : Bank) (a : Addr) : Statement (.rdIota b a) := fields_mkWord 0 b a 0

theorem rdIotb (b : Bank) (a : Addr) : Statement (.rdIotb b a) := fields_mkWord 0 b a 0

theorem rdUnmapped (b : Bank) (a : Addr) : Statement (.rdUnmapped b a) := fields_mkWord 0 b a 0

theorem wrRam (b : Bank) (a : Addr) (d : Byte) : Statement (.wrRam b a d) := fields_mkWord 1 b a d

theorem wrColor (b : Bank) (a : Addr) (d : Byte) : Statement (.wrColor b a d) := fields_mkWord 1 b a d

theorem wrSound (b : Bank) (a : Addr) (d : Byte) : Statement (.wrSound b a d) := fields_mkWord 1 b a d

theorem wrVideo (b : Bank) (a : Addr) (d : Byte) : Statement (.wrVideo b a d) := fields_mkWord 1 b a d

theorem wrIota (b : Bank) (a : Addr) (d : Byte) : Statement (.wrIota b a d) := fields_mkWord 1 b a d

theorem wrIotb (b : Bank) (a : Addr) (d : Byte) : Statement (.wrIotb b a d) := fields_mkWord 1 b a d

theorem wrUnmapped (b : Bank) (a : Addr) (d : Byte) : Statement (.wrUnmapped b a d) := fields_mkWord 1 b a d

theorem frame : Statement .frame := fields_mkWord 2 0 0 0

theorem reset : Statement .reset := fields_mkWord 3 0 0 0

end Laws.EncodedFields

end Sys2Proof
end

