-- ==== Sys2Proof/Laws/Resolve.lean ====
section
/-! SUPPORT. Store indices as the subtractions of spec/30_encoding.md R68, and that target resolution looks at the bank and the
high byte of the address only, so that a question about it is one about 8 banks and 256 pages. -/

namespace Sys2Proof.Machine

/-! R68: each mask is the subtraction of the window's base, inside the window. -/

theorem romIndex_basic {a : Addr} (h : 0xA000 ≤ a.toNat ∧ a.toNat ≤ 0xBFFF) : (romIndex a).toNat = a.toNat - 0xA000 := by
  simp only [romIndex, BitVec.extractLsb'_toNat]
  omega

theorem romIndex_kernal {a : Addr} (h : 0xE000 ≤ a.toNat) : (romIndex a).toNat = a.toNat - 0xE000 := by
  have := a.isLt
  simp only [romIndex, BitVec.extractLsb'_toNat]
  omega

theorem windowIndex_toNat {a : Addr} (h : 0xD000 ≤ a.toNat ∧ a.toNat ≤ 0xDFFF) : (windowIndex a).toNat = a.toNat - 0xD000 := by
  simp only [windowIndex, BitVec.extractLsb'_toNat]
  omega

theorem cellIndex_toNat {a : Addr} (h : 0xD800 ≤ a.toNat ∧ a.toNat ≤ 0xDBFF) : (cellIndex a).toNat = a.toNat - 0xD800 := by
  simp only [cellIndex, BitVec.extractLsb'_toNat]
  omega

theorem videoIndex_toNat (a : Addr) : (videoIndex a).toNat = a.toNat % 0x40 := by simp [videoIndex, BitVec.extractLsb'_toNat]

theorem soundIndex_toNat (a : Addr) : (soundIndex a).toNat = a.toNat % 0x20 := by simp [soundIndex, BitVec.extractLsb'_toNat]

theorem ioIndex_toNat (a : Addr) : (ioIndex a).toNat = a.toNat % 0x10 := by simp [ioIndex, BitVec.extractLsb'_toNat]

theorem lowNibble_toNat (v : Byte) : (lowNibble v).toNat = v.toNat % 16 := by simp [lowNibble, BitVec.extractLsb'_toNat]

theorem imageByte_of_lt {n : Nat} (image : Vector Byte n) {i : Nat} (h : i < n) : imageByte image i = image[i] := by
  simp [imageByte, h]

theorem within_iff (a lo hi : Addr) : Addr.within a lo hi = true ↔ lo.toNat ≤ a.toNat ∧ a.toNat ≤ hi.toNat := by
  simp [Addr.within]

/-! The page of an address: its high byte, the low byte 0. -/

/-- The first address of the page. -/
def pageOf (a : Addr) : Addr := a.extractLsb' 8 8 ++ 0#8

theorem pageOf_toNat (a : Addr) : (pageOf a).toNat = a.toNat / 256 * 256 := by
  unfold pageOf
  rw [append_toNat]
  simp only [BitVec.extractLsb'_toNat, Nat.shiftRight_eq_div_pow, BitVec.toNat_ofNat]
  have := a.isLt
  omega

theorem regionHolds_page (r : Region) (a : Addr) : regionHolds r (pageOf a) = regionHolds r a := by
  have := a.isLt
  cases r <;> simp only [regionHolds, pageOf_toNat] <;> rw [Bool.eq_iff_iff] <;>
    simp only [Bool.and_eq_true, decide_eq_true_eq] <;> omega

theorem registerTarget_page (a : Addr) : registerTarget (pageOf a) = registerTarget a := by
  have page : ∀ lo hi : Nat, (lo * 256 ≤ a.toNat / 256 * 256 ∧ a.toNat / 256 * 256 ≤ hi * 256 + 255) =
      (lo * 256 ≤ a.toNat ∧ a.toNat ≤ hi * 256 + 255) := fun lo hi => by
    rw [eq_iff_iff]
    omega
  have e1 := page 0xD8 0xDB
  have e2 := page 0xD4 0xD7
  have e3 := page 0xD0 0xD3
  have e4 := page 0xDC 0xDC
  have e5 := page 0xDD 0xDD
  simp only [Nat.reduceMul, Nat.reduceAdd] at e1 e2 e3 e4 e5
  unfold registerTarget
  simp only [pageOf_toNat, e1, e2, e3, e4, e5]

theorem readTarget_page (b : Bank) (a : Addr) : readTarget b (pageOf a) = readTarget b a := by
  unfold readTarget
  simp only [regionHolds_page]
  cases (chain b).find? (fun r => regionHolds r a) with
  | none => rfl
  | some r => cases r <;> simp only [regionTarget, registerTarget_page]

theorem writeTarget_page (b : Bank) (a : Addr) : writeTarget b (pageOf a) = writeTarget b a := by
  have window : (0xD000 ≤ (pageOf a).toNat ∧ (pageOf a).toNat ≤ 0xDFFF) = (0xD000 ≤ a.toNat ∧ a.toNat ≤ 0xDFFF) := by
    rw [pageOf_toNat, eq_iff_iff]
    omega
  unfold writeTarget
  simp only [window, registerTarget_page]

/-- The six sub-ranges of the register window (R66). -/
theorem registerTarget_range {a : Addr} (h : 0xD000 ≤ a.toNat ∧ a.toNat ≤ 0xDFFF) :
    (registerTarget a = .video ∧ a.toNat ≤ 0xD3FF) ∨
    (registerTarget a = .sound ∧ 0xD400 ≤ a.toNat ∧ a.toNat ≤ 0xD7FF) ∨
    (registerTarget a = .color ∧ 0xD800 ≤ a.toNat ∧ a.toNat ≤ 0xDBFF) ∨
    (registerTarget a = .iota ∧ 0xDC00 ≤ a.toNat ∧ a.toNat ≤ 0xDCFF) ∨
    (registerTarget a = .iotb ∧ 0xDD00 ≤ a.toNat ∧ a.toNat ≤ 0xDDFF) ∨
    (registerTarget a = .unmapped ∧ 0xDE00 ≤ a.toNat) := by
  unfold registerTarget
  repeat' split
  all_goals simp
  all_goals omega

end Sys2Proof.Machine
end

