-- ==== Sys2Proof/Tests/Slice0.lean ====
section
/-! SUPPORT. Tests: decoding of words written out from spec/30_encoding.md, the ill-formed terms that each check refuses, one
step of each operation with the result spec/95_test_vectors.md gives (its vectors V1 to V7 and programs P1 to P4), and for
every statement with hypotheses a state and operands that meet them. -/

namespace Sys2Proof.Tests

open Sys2Proof Sys2Proof.Machine

/-! ## Helpers -/

/-- The glyphs of P2: glyph 1 and glyph $20, every other byte 0. -/
def charRom : Vector Byte 4096 :=
  ⟨(List.replicate 8 (0 : Byte) ++ [0x18, 0x3C, 0x66, 0x7E, 0x66, 0x66, 0x66, 0x00] ++ List.replicate 240 0 ++
    [0xFF, 0x81, 0x81, 0x81, 0x81, 0x81, 0x81, 0xFF] ++ List.replicate 3832 0).toArray, by
      simp only [List.size_toArray, List.length_append, List.length_replicate, List.length_cons, List.length_nil]⟩

/-- The configuration of P2, one row of two cells; colour `k` of the palette is the number `k`. -/
def cfg : Cfg where
  basicRom := Vector.replicate 8192 0x94
  kernalRom := Vector.replicate 8192 0xE2
  charRom := charRom
  ram1Reset := 0x07
  colorReset := 0
  bg0Reset := 0
  iotaLive := #v[true, true, true, true, false, false, false, false,
    false, false, false, false, false, false, false, false]
  videoStubs := Vector.replicate 64 .unimplemented
  soundStubs := Vector.replicate 32 (.fixed 0x55)
  iotaStubs := Vector.replicate 16 .unimplemented
  iotbStubs := Vector.replicate 16 .unimplemented
  rows := 1
  cols := 2
  screenBase := 0x0400
  codepageOffset := 0
  colourCount := 100
  palette := #v[0, 1, 2, 3, 4, 5, 6, 7, 8, 9, 10, 11, 12, 13, 14, 15]
  defaultTileColour := 99
  fbW := 16
  fbH := 8
  originX := 0
  originY := 0
  cursorColAddr := 0x00D3
  cursorRowAddr := 0x00D6
  textColourAddr := 0x0286
  cursorOverText := true

/-- The reset state with `ram[1]` and the pending requests given. -/
def start (bankByte : Byte) (requests : List Request) : State :=
  { State.resetOf cfg with ram := if bankByte = 0 then [] else [(1, bankByte)], requests := requests }

/-- A field of the state an outcome answers. -/
def after {α : Type} (o : Host.Outcome State Fault Refusal) (field : State → α) : Option α :=
  match o with
  | .next s => some (field s)
  | .fault _ => none
  | .refused _ => none

/-- Why an outcome is a refusal. -/
def refusal (o : Host.Outcome State Fault Refusal) : Option Refusal :=
  match o with
  | .next _ => none
  | .fault _ => none
  | .refused r => some r

theorem cfg_valid : cfg.valid = true := by decide

theorem start_admits (b : Byte) (l : List Request) : (start b l).Admits := ⟨cfg_valid, rfl⟩

/-! ## Decoding: words from R65, R67, R77 -/

theorem test_decode_rdRam : decode 0x06A00000 = .ok (.rdRam 6 0xA000) := by decide

theorem test_decode_rdBasic : decode 0x07A00000 = .ok (.rdBasic 7 0xA000) := by decide

theorem test_decode_rdKernal : decode 0x07FFFC00 = .ok (.rdKernal 7 0xFFFC) := by decide

theorem test_decode_rdChar : decode 0x03D02100 = .ok (.rdChar 3 0xD021) ∧ decode 0x02DFFF00 = .ok (.rdChar 2 0xDFFF) := by
  decide

theorem test_decode_rdVideo : decode 0x07D02100 = .ok (.rdVideo 7 0xD021) ∧ decode 0x06D3FF00 = .ok (.rdVideo 6 0xD3FF) := by
  decide

theorem test_decode_rdSound : decode 0x05D40000 = .ok (.rdSound 5 0xD400) := by decide

theorem test_decode_rdColor : decode 0x07DBFF00 = .ok (.rdColor 7 0xDBFF) := by decide

theorem test_decode_rdIota : decode 0x05DC1200 = .ok (.rdIota 5 0xDC12) := by decide

theorem test_decode_rdIotb : decode 0x06DD0000 = .ok (.rdIotb 6 0xDD00) := by decide

theorem test_decode_rdUnmapped : decode 0x05DF0000 = .ok (.rdUnmapped 5 0xDF00) := by decide

theorem test_decode_wrRam : decode 0x14D02106 = .ok (.wrRam 4 0xD021 0x06) ∧ decode 0x17000105 = .ok (.wrRam 7 1 5) := by decide

theorem test_decode_wrVideo : decode 0x12D02106 = .ok (.wrVideo 2 0xD021 0x06) := by decide

theorem test_decode_wrSound : decode 0x17D4180F = .ok (.wrSound 7 0xD418 0x0F) := by decide

theorem test_decode_wrColor : decode 0x11D80007 = .ok (.wrColor 1 0xD800 0x07) := by decide

theorem test_decode_wrIota : decode 0x17DC0D7F = .ok (.wrIota 7 0xDC0D 0x7F) := by decide

theorem test_decode_wrIotb : decode 0x17DD0003 = .ok (.wrIotb 7 0xDD00 0x03) := by decide

theorem test_decode_wrUnmapped : decode 0x17DE0001 = .ok (.wrUnmapped 7 0xDE00 0x01) := by decide

theorem test_decode_frame : decode 0x20000000 = .ok .frame ∧ decode 0x2FFFFFFF = .ok .frame := by decide

theorem test_decode_reset : decode 0x30000000 = .ok .reset ∧ decode 0x3FFFFFFF = .ok .reset := by decide

/-- R71: what the decoder rejects, by name. -/
theorem test_decode_rejects : decode 0x40000000 = .error .reservedOp ∧ decode 0x08000000 = .error .reservedBits ∧
    decodeRequest 7 0x01040000 = .error .reservedBits ∧ decodeRequest 7 0xF0000000 = .error .reservedOp := by decide

/-- Table words as the host numbers them; a bit above the row's is none of the block's. -/
theorem test_decodeTableWord : decodeTableWord 32 0x17D02106 = some (.wrVideo 7 0xD021 0x06) ∧
    decodeTableWord 32 0x100000000 = none ∧ decodeTableWord 32 0x40000000 = none := by decide

/-- R74, R75: the request lines and the pseudo-operations. -/
theorem test_request_words :
    (requestRd 0xA000).word = 0x00A00000 ∧ (requestWr 0xD021 0x06).word = 0x10D02106 ∧
    requestFrame true = ⟨0x20000000, true⟩ ∧ requestReset.word = 0x30000000 ∧
    (pseudoBank 5).map Request.word = [0x10000105] ∧ (pseudoBgcol 6).map Request.word = [0x10D02106] ∧
    (pseudoPutc cfg 1 0x20 3).map Request.word = [0x10040120, 0x10D80103] ∧
    pseudoPoke 0xD021 6 = [requestWr 0xD021 6] ∧ pseudoPeek 0xD021 = [requestRd 0xD021] := by decide

/-! ## Well-formedness: each check refuses an ill-formed term -/

theorem test_wf_reads : (Instr.rdRam 3 0xA000).wf = false ∧ (Instr.rdRam 2 0xE000).wf = false ∧
    (Instr.rdRam 1 0xD000).wf = false ∧ (Instr.rdRam 5 0xD000).wf = false ∧
    (Instr.rdBasic 6 0xA000).wf = false ∧ (Instr.rdBasic 7 0xC000).wf = false ∧
    (Instr.rdKernal 5 0xE000).wf = false ∧ (Instr.rdKernal 7 0xDFFF).wf = false ∧
    (Instr.rdChar 5 0xD000).wf = false ∧ (Instr.rdChar 0 0xD000).wf = false ∧ (Instr.rdChar 1 0xE000).wf = false := by decide

theorem test_wf_register_reads : (Instr.rdColor 4 0xD800).wf = false ∧ (Instr.rdColor 7 0xDC00).wf = false ∧
    (Instr.rdSound 1 0xD400).wf = false ∧ (Instr.rdSound 7 0xD3FF).wf = false ∧
    (Instr.rdVideo 2 0xD000).wf = false ∧ (Instr.rdVideo 7 0xD400).wf = false ∧
    (Instr.rdIota 3 0xDC00).wf = false ∧ (Instr.rdIota 7 0xDD00).wf = false ∧
    (Instr.rdIotb 0 0xDD00).wf = false ∧ (Instr.rdIotb 7 0xDCFF).wf = false ∧
    (Instr.rdUnmapped 1 0xDE00).wf = false ∧ (Instr.rdUnmapped 7 0xDDFF).wf = false := by decide

theorem test_wf_writes : (Instr.wrRam 1 0xD000 0).wf = false ∧ (Instr.wrRam 6 0xDFFF 0).wf = false ∧
    (Instr.wrColor 4 0xD800 0).wf = false ∧ (Instr.wrColor 1 0xD7FF 0).wf = false ∧
    (Instr.wrSound 0 0xD400 0).wf = false ∧ (Instr.wrSound 1 0xD800 0).wf = false ∧
    (Instr.wrVideo 4 0xD021 0).wf = false ∧ (Instr.wrVideo 1 0xD421 0).wf = false ∧
    (Instr.wrIota 0 0xDC00 0).wf = false ∧ (Instr.wrIota 1 0xDD00 0).wf = false ∧
    (Instr.wrIotb 4 0xDD00 0).wf = false ∧ (Instr.wrIotb 1 0xDE00 0).wf = false ∧
    (Instr.wrUnmapped 4 0xDE00 0).wf = false ∧ (Instr.wrUnmapped 1 0xDDFF 0).wf = false := by decide

/-- Each constraint of R6, broken alone. -/
theorem test_cfg_invalid :
    { cfg with ram1Reset := 0x06 }.valid = false ∧ { cfg with rows := 0 }.valid = false ∧ { cfg with cols := 0 }.valid = false ∧
    { cfg with rows := 33, cols := 32, fbW := 1000, fbH := 1000 }.valid = false ∧
    { cfg with screenBase := 0xFFFF }.valid = false ∧ { cfg with codepageOffset := 257 }.valid = false ∧
    { cfg with originX := 1 }.valid = false ∧ { cfg with originY := 1 }.valid = false := by decide

/-- The configuration of `State.reset` meets the constraints. -/
theorem test_reset_cfg_valid : Config.cfg.valid = true := by
  unfold Cfg.valid Config.cfg
  decide

/-! ## One step of each operation -/

/-- V1 rows 12 and 3: `RD $0001` answers all of `ram[1]`; under bank 6 the BASIC window is RAM. -/
theorem test_rdRam : after (step (start 7 [requestRd 1])) State.rdata = some (some 0x07) ∧
    after (step (start 6 [requestRd 0xBFFF])) (fun s => (s.rdata, s.sel)) = some (some 0, some .ram) := by decide

/-- V1 row 1. -/
theorem test_rdBasic : after (step (start 7 [requestRd 0xA000])) (fun s => (s.rdata, s.sel)) =
    some (some 0x94, some .basic) := by decide

/-- V1 row 4. -/
theorem test_rdKernal : after (step (start 2 [requestRd 0xE000])) (fun s => (s.rdata, s.sel)) =
    some (some 0xE2, some .kernal) := by decide

/-- R83: `RD $D008` is the top row of glyph 1. -/
theorem test_rdChar : after (step (start 1 [requestRd 0xD008])) (fun s => (s.rdata, s.sel, s.diag)) =
    some (some 0x18, some .char, []) := by decide

/-- V2 row 1: the upper four bits are 0. -/
theorem test_rdColor :
    after (step ((start 7 [requestRd 0xD800]).storeColor 0 0xE)) (fun s => (s.rdata, s.diag)) = some (some 0x0E, []) := by decide

/-- R86 with a fixed stub: the constant, and no diagnostic. -/
theorem test_rdSound : after (step (start 7 [requestRd 0xD41B])) (fun s => (s.rdata, s.diag)) = some (some 0x55, []) := by decide

/-- V2 row 6: not `bg0`, and logged. -/
theorem test_rdVideo : after (step ((start 7 [requestRd 0xD021]).storeBg0 6)) (fun s => (s.rdata, s.diag)) =
    some (some 0, [⟨.unimplementedRegisterRead, 0xD021, 0⟩]) := by decide

/-- V2 rows 9 and 11: the mirror of a live byte, and a stub. -/
theorem test_rdIota : after (step ((start 7 [requestRd 0xDCF0]).storeIota 0 0x7F)) (fun s => (s.rdata, s.diag)) =
      some (some 0x7F, []) ∧
    after (step (start 7 [requestRd 0xDC04])) (fun s => (s.rdata, s.diag)) =
      some (some 0, [⟨.unimplementedRegisterRead, 0xDC04, 0⟩]) := by decide

/-- V2 row 13. -/
theorem test_rdIotb : after (step (start 6 [requestRd 0xDD00])) (fun s => (s.rdata, s.diagOut)) =
    some (some 0, some ⟨.unimplementedRegisterRead, 0xDD00, 0⟩) := by decide

/-- V2 row 14. -/
theorem test_rdUnmapped : after (step ((start 5 [requestRd 0xDF00]).storeRam 0xDF00 0x42)) (fun s => (s.rdata, s.diag, s.fault)) =
    some (some 0x42, [⟨.unhandledHardwareRead, 0xDF00, 0⟩], none) := by decide

/-- V3 rows 19 and 6: the bank cell; the register window under bank 4. -/
theorem test_wrRam : after (step (start 7 [requestWr 1 0x35])) (fun s => (s.ramByte 1, s.bank)) = some (0x35, 5) ∧
    after (step (start 4 [requestWr 0xD021 6])) (fun s => (s.ramByte 0xD021, s.bg0, s.shadowByte 0x021)) = some (6, 0, 0) := by
  decide

/-- V3 rows 1 and 3. -/
theorem test_wrColor : after (step (start 7 [requestWr 0xD800 0xFE])) (fun s => (s.colorCell 0, s.shadowByte 0x800, s.ramByte 0xD800)) =
      some (0xE, 0xFE, 0) ∧
    after (step (start 1 [requestWr 0xD800 0x07])) (fun s => (s.colorCell 0, s.shadowByte 0x800)) = some (0x7, 0x07) := by decide

/-- V3 row 10: captured at the unmirrored address. -/
theorem test_wrSound : after (step (start 7 [requestWr 0xD420 0x11])) (fun s => (s.shadowIO, s.diag)) =
    some ([(0x420, 0x11)], []) := by decide

/-- V4 rows 2, 6 and 7: low nibble, last mirror, another register. -/
theorem test_wrVideo : after (step (start 7 [requestWr 0xD021 0xF6])) State.bg0 = some 6 ∧
    after (step (start 7 [requestWr 0xD3E1 0x0A])) State.bg0 = some 10 ∧
    after (step (start 7 [requestWr 0xD022 0x05])) State.bg0 = some 0 := by decide

/-- V3 rows 13 and 14. -/
theorem test_wrIota : after (step (start 7 [requestWr 0xDC13 0x55])) (fun s => (s.iotaByte 3, s.shadowByte 0xC13, s.diag)) =
      some (0x55, 0x55, []) ∧
    after (step (start 7 [requestWr 0xDC0D 0x7F])) (fun s => (s.iotaByte 13, s.shadowByte 0xC0D, s.diag)) =
      some (0, 0x7F, [⟨.unimplementedRegisterWrite, 0xDC0D, 0x7F⟩]) := by decide

/-- V3 row 15. -/
theorem test_wrIotb : after (step (start 7 [requestWr 0xDD00 0x03])) (fun s => (s.shadowIO, s.diag)) =
    some ([(0xD00, 0x03)], [⟨.unimplementedRegisterWrite, 0xDD00, 0x03⟩]) := by decide

/-- V3 row 17. -/
theorem test_wrUnmapped : after (step (start 2 [requestWr 0xDFFF 0xFF])) (fun s => (s.shadowIO, s.fault, s.diag, s.ram)) =
    some ([(0xFFF, 0xFF)], some ⟨.unknownHardwareWrite, 0xDFFF, 0xFF⟩, [], [(1, 2)]) := by decide

/-- The state in which P2 issues FRAME. -/
def p2 (cursor : Bool) : State :=
  ((({ start 7 [requestFrame cursor] with ram := [(1, 7), (0xD3, 1), (0x286, 0x0E), (0x400, 0x01), (0x401, 0x20)] }).storeColor 0 0xE).storeColor
    1 0x3).storeBg0 6

/-- P2: the framebuffer, row by row. -/
theorem test_frame : after (step (p2 false)) State.fb = some (some [
    [6, 6, 6, 14, 14, 6, 6, 6, 3, 3, 3, 3, 3, 3, 3, 3],
    [6, 6, 14, 14, 14, 14, 6, 6, 3, 6, 6, 6, 6, 6, 6, 3],
    [6, 14, 14, 6, 6, 14, 14, 6, 3, 6, 6, 6, 6, 6, 6, 3],
    [6, 14, 14, 14, 14, 14, 14, 6, 3, 6, 6, 6, 6, 6, 6, 3],
    [6, 14, 14, 6, 6, 14, 14, 6, 3, 6, 6, 6, 6, 6, 6, 3],
    [6, 14, 14, 6, 6, 14, 14, 6, 3, 6, 6, 6, 6, 6, 6, 3],
    [6, 14, 14, 6, 6, 14, 14, 6, 3, 6, 6, 6, 6, 6, 6, 3],
    [6, 6, 6, 6, 6, 6, 6, 6, 3, 3, 3, 3, 3, 3, 3, 3]]) := by decide +kernel

/-- R113: the cursor rectangle at column 1, row 0, over the text. -/
theorem test_frame_cursor : after (step (p2 true)) (fun s => (s.fb.map fun f => f.getD 1 [])) =
    some (some [6, 6, 14, 14, 14, 14, 6, 6, 14, 14, 14, 14, 14, 14, 14, 14]) := by decide +kernel

/-- V6 row 5 with a background table, and its default tile colour. -/
theorem test_render_background :
    (Framebuffer.pixel? (render { cfg with cols := 1 }
      { videoBuffer := fun _ => 0, foreground := some fun _ => 0x1E, background := some fun _ => 0x2, glyphRom := fun _ => 0x81,
        palette := paletteColour cfg, originX := 0, originY := 0 } (Framebuffer.filled 8 8 7)) 0 0,
     Framebuffer.pixel? (render { cfg with cols := 1 }
      { videoBuffer := fun _ => 0, foreground := none, background := some fun _ => 0x2, glyphRom := fun _ => 0x81,
        palette := paletteColour cfg, originX := 0, originY := 0 } (Framebuffer.filled 8 8 7)) 7 0,
     Framebuffer.pixel? (render { cfg with cols := 1 }
      { videoBuffer := fun _ => 0, foreground := none, background := some fun _ => 0x2, glyphRom := fun _ => 0x81,
        palette := paletteColour cfg, originX := 0, originY := 0 } (Framebuffer.filled 8 8 7)) 3 0) =
    (some 14, some 99, some 2) := by decide +kernel

/-- The state of V5 rows 1 to 4. -/
def faulted (requests : List Request) : State := (start 7 requests).raise .unknownHardwareWrite 0xDF00 1

/-- V5: refused while faulted; R71's reserved words; an empty queue. -/
theorem test_refusals : refusal (step (faulted [requestRd 0])) = some .faultLatched ∧
    refusal (step (faulted [requestFrame false])) = some .faultLatched ∧
    refusal (step (start 7 [⟨0x40000000, false⟩])) = some .reservedOp ∧
    refusal (step (start 7 [⟨0x01040000, false⟩])) = some .reservedBits ∧
    refusal (step (start 7 [])) = some .noRequest := by decide

/-- V5 row 4, V7: RESET is admitted and leaves the reset state. -/
theorem test_reset : step (faulted [requestReset, requestRd 0]) = .next (start 7 [requestRd 0]) := rfl

/-- `withFetchWord` makes the next step run the table word, under the word's bank. -/
theorem test_withFetchWord : after (step ((start 7 []).withFetchWord 32 0x11D02106)) (fun s => (s.bg0, s.bank, s.sel)) =
    some (6, 1, some .video) := by decide

/-- The code numbers of R117 and R122. -/
theorem test_codes : FaultCode.unknownHardwareWrite.code = 1 ∧ DiagKind.unhandledHardwareRead.code = 1 ∧
    DiagKind.unimplementedRegisterRead.code = 2 ∧ DiagKind.unimplementedRegisterWrite.code = 3 := by decide

/-! ## Witnesses: what meets the hypotheses of each statement

One theorem for each statement of Certificates/Slice0/Obligations.lean that has hypotheses. A statement that says the same of
several operations, directions or ranges has a clause here for each, at an end of its range. -/

theorem start_ram_wf (b : Byte) (l : List Request) : Memory.wf 65536 (start b l).ram = true := by
  unfold start
  split <;> simp_all [Memory.wf, Memory.wfFrom, unlistedByte]

theorem witness_EncodedOperationDecodesBack :
    (Instr.rdRam 7 0x9FFF).wf = true ∧ (Instr.rdRam 6 0xBFFF).wf = true ∧ (Instr.rdBasic 3 0xBFFF).wf = true ∧
    (Instr.rdKernal 2 0xE000).wf = true ∧ (Instr.rdChar 1 0xDFFF).wf = true ∧ (Instr.rdColor 5 0xDBFF).wf = true ∧
    (Instr.rdSound 6 0xD400).wf = true ∧ (Instr.rdVideo 7 0xD3FF).wf = true ∧ (Instr.rdIota 5 0xDC00).wf = true ∧
    (Instr.rdIotb 6 0xDDFF).wf = true ∧ (Instr.rdUnmapped 7 0xDE00).wf = true ∧ (Instr.wrRam 4 0xDFFF 1).wf = true ∧
    (Instr.wrRam 7 0xE000 1).wf = true ∧ (Instr.wrColor 1 0xD800 1).wf = true ∧ (Instr.wrSound 2 0xD7FF 1).wf = true ∧
    (Instr.wrVideo 3 0xD000 1).wf = true ∧ (Instr.wrIota 5 0xDCFF 1).wf = true ∧ (Instr.wrIotb 6 0xDD00 1).wf = true ∧
    (Instr.wrUnmapped 1 0xDFFF 1).wf = true ∧ Instr.frame.wf = true ∧ Instr.reset.wf = true := by decide

theorem witness_DecodedWordIsItsOperationsWord :
    decode 0x07BFFF77 = .ok (.rdBasic 7 0xBFFF) ∧ decode 0x17DE0001 = .ok (.wrUnmapped 7 0xDE00 0x01) ∧
    decode 0x2ABCDEF0 = .ok .frame := by decide

theorem witness_TableRowsAreExclusiveAndComplete :
    (∃ r ∈ decodeTable, r.matches 0x07A00000 = true) ∧
    (opField 0x07FFFFFF = 0 ∧ (0x07FFFFFF : OpWord).getLsbD 27 = false) ∧
    (opField 0x17FFFFFF = 1 ∧ (0x17FFFFFF : OpWord).getLsbD 27 = false) := by decide

theorem witness_ReservedRequestsAreRefused :
    (start 7 [⟨0x40000000, false⟩]).requests = ⟨0x40000000, false⟩ :: [] ∧ 4 ≤ (opField 0x40000000).toNat ∧
    4 ≤ (opField 0xF0000000).toNat ∧ (opField 0x01040000 = 0 ∧ zeroField 0x01040000 ≠ 0) ∧
    (opField 0x1F000000 = 1 ∧ zeroField 0x1F000000 ≠ 0) := ⟨rfl, by decide⟩

theorem witness_StepRunsTheDecodedOperation :
    (start 7 [requestRd 0xA000]).requests = requestRd 0xA000 :: [] ∧
    decodeRequest (start 7 [requestRd 0xA000]).bank (requestRd 0xA000).word = .ok (.rdBasic 7 0xA000) := ⟨rfl, by decide⟩

theorem witness_FetchedTableWordRunsNext : Memory.wf 65536 (start 7 []).ram = true ∧
    decodeTableWord 32 0x11D02106 = some (.wrVideo 1 0xD021 6) ∧ decodeTableWord 32 0x20000000 = some .frame :=
  ⟨start_ram_wf 7 [], by decide⟩

theorem witness_ReadRequestIsTheReadContract :
    (start 7 [requestRd 0xFFFF]).requests = requestRd 0xFFFF :: [] ∧ (requestRd 0xFFFF).word = mkWord 0 0 0xFFFF 0 := ⟨rfl, rfl⟩

theorem witness_WriteRequestIsTheWriteContract :
    (start 7 [requestWr 0xFFFF 3]).requests = requestWr 0xFFFF 3 :: [] ∧ (requestWr 0xFFFF 3).word = mkWord 1 0 0xFFFF 3 :=
  ⟨rfl, rfl⟩

theorem witness_FrameAndResetIgnoreTheLowBits :
    (start 7 [⟨0x2FFFFFFF, true⟩]).requests = ⟨0x2FFFFFFF, true⟩ :: [] ∧ opField 0x2FFFFFFF = 2 ∧ opField 0x3FFFFFFF = 3 :=
  ⟨rfl, by decide⟩

theorem witness_EveryAdmittedRequestIsServed :
    (start 7 [requestRd 0]).Admits ∧ (start 7 [requestRd 0]).requests = requestRd 0 :: [] ∧
    (opField (requestRd 0).word).toNat < 4 ∧ zeroField (requestRd 0).word = 0 ∧ (opField requestReset.word).toNat < 4 :=
  ⟨start_admits 7 _, rfl, by decide⟩

theorem witness_ReadRamAnswersTheCell : (start 7 []).Admits ∧ (Instr.rdRam 7 1).wf = true ∧ (Instr.rdRam 0 0xFFFF).wf = true :=
  ⟨start_admits 7 [], by decide⟩

theorem witness_RomReadsAnswerTheImageByte : (start 7 []).Admits ∧ (Instr.rdBasic 7 0xA000).wf = true ∧
    (Instr.rdBasic 3 0xBFFF).wf = true ∧ (Instr.rdKernal 2 0xE000).wf = true ∧ (Instr.rdKernal 7 0xFFFF).wf = true ∧
    (Instr.rdChar 1 0xD000).wf = true ∧ (Instr.rdChar 3 0xDFFF).wf = true := ⟨start_admits 7 [], by decide⟩

theorem witness_ReadColorAnswersTheCellZeroExtended : (start 7 []).Admits ∧ (Instr.rdColor 7 0xD800).wf = true ∧
    (Instr.rdColor 5 0xDBFF).wf = true := ⟨start_admits 7 [], by decide⟩

theorem witness_StubReadsAnswerTheirConstant : (start 7 []).Admits ∧ (Instr.rdSound 7 0xD7FF).wf = true ∧
    (Instr.rdVideo 5 0xD000).wf = true ∧ (Instr.rdIotb 6 0xDDFF).wf = true ∧
    stubLogs (videoStub cfg 0) = true ∧ stubLogs (soundStub cfg 31) = false := ⟨start_admits 7 [], by decide⟩

theorem witness_ReadIotaAnswersTheLiveByteOrTheStub : (start 7 []).Admits ∧ (Instr.rdIota 7 0xDC03).wf = true ∧
    cfg.iotaLive[3] = true ∧ (Instr.rdIota 7 0xDCFF).wf = true ∧ cfg.iotaLive[15] = false := ⟨start_admits 7 [], by decide⟩

theorem witness_ReadUnmappedAnswersRamAndLogs : (start 5 []).Admits ∧ (Instr.rdUnmapped 5 0xDE00).wf = true ∧
    (Instr.rdUnmapped 7 0xDFFF).wf = true := ⟨start_admits 5 [], by decide⟩

theorem witness_ReadsHaveNoSideEffect : IsReadOperation (.rdIotb 7 0xDD00) ∧
    ∃ t, exec (.rdIotb 7 0xDD00) (start 7 []) = .next t := ⟨trivial, _, rfl⟩

theorem witness_WriteRamStoresTheByteAndNothingElse : (start 4 []).Admits ∧ Memory.wf 65536 (start 4 []).ram = true ∧
    (Instr.wrRam 4 0xD000 0).wf = true ∧ (Instr.wrRam 7 0xFFFF 5).wf = true :=
  ⟨start_admits 4 [], start_ram_wf 4 [], by decide⟩

theorem witness_WriteColorKeepsTheLowNibble : (start 7 []).Admits ∧ Memory.wf 4096 (start 7 []).shadowIO = true ∧
    (Instr.wrColor 7 0xD800 0xFE).wf = true ∧ (Instr.wrColor 1 0xDBFF 0xFE).wf = true := ⟨start_admits 7 [], rfl, by decide⟩

theorem witness_WriteSoundIsCapturedOnly : (start 7 []).Admits ∧ Memory.wf 4096 (start 7 []).shadowIO = true ∧
    (Instr.wrSound 7 0xD420 0x11).wf = true := ⟨start_admits 7 [], rfl, by decide⟩

theorem witness_WriteVideoSetsOnlyTheBackground : (start 7 []).Admits ∧ Memory.wf 4096 (start 7 []).shadowIO = true ∧
    (Instr.wrVideo 7 0xD3E1 6).wf = true ∧ (Instr.wrVideo 2 0xD000 6).wf = true := ⟨start_admits 7 [], rfl, by decide⟩

theorem witness_WriteIotaStoresTheLiveByteOrLogs : (start 7 []).Admits ∧ Memory.wf 4096 (start 7 []).shadowIO = true ∧
    (Instr.wrIota 7 0xDC03 1).wf = true ∧ cfg.iotaLive[3] = true ∧ (Instr.wrIota 1 0xDCFF 1).wf = true ∧
    cfg.iotaLive[15] = false := ⟨start_admits 7 [], rfl, by decide⟩

theorem witness_WriteIotbIsCapturedAndLogged : (start 7 []).Admits ∧ Memory.wf 4096 (start 7 []).shadowIO = true ∧
    (Instr.wrIotb 3 0xDDFF 1).wf = true := ⟨start_admits 7 [], rfl, by decide⟩

theorem witness_WriteUnmappedTakesTheFault : (start 7 []).Admits ∧ Memory.wf 4096 (start 7 []).shadowIO = true ∧
    (Instr.wrUnmapped 1 0xDFFF 1).wf = true := ⟨start_admits 7 [], rfl, by decide⟩

/-- On the register path, and off it by the bank and by the address. -/
theorem witness_CaptureOnTheRegisterPathOnly : Memory.wf 4096 (start 1 [requestWr 0xDFFF 9]).shadowIO = true ∧
    (start 1 [requestWr 0xDFFF 9]).RequestsWrite 0xDFFF 9 [] ∧ (∃ t, step (start 1 [requestWr 0xDFFF 9]) = .next t) ∧
    (start 1 []).RegistersWritable ∧ ¬ (start 4 []).RegistersWritable ∧ (∃ t, step (start 4 [requestWr 0xD000 9]) = .next t) ∧
    (∃ t, step (start 1 [requestWr 0xCFFF 9]) = .next t) :=
  ⟨rfl, ⟨false, rfl⟩, ⟨_, rfl⟩, rfl, by unfold State.RegistersWritable; decide, ⟨_, rfl⟩, ⟨_, rfl⟩⟩

theorem witness_RegisterPathWritesChangeAtMostOneStore : (start 2 [requestWr 0xD021 9]).RegistersWritable ∧
    (start 2 [requestWr 0xD021 9]).RequestsWrite 0xD021 9 [] ∧ ∃ t, step (start 2 [requestWr 0xD021 9]) = .next t :=
  ⟨rfl, ⟨false, rfl⟩, _, rfl⟩

/-- `WR a, v` then `RD a` under a bank meet the hypotheses of `ReadAfterWriteByRegion`: the write is served and leaves the bank
as it was. -/
def WriteThenRead (b : Byte) (a : Addr) (v : Byte) : Prop :=
  Memory.wf 65536 (start b [requestWr a v, requestRd a]).ram = true ∧ (requestRd a).word = mkWord 0 0 a 0 ∧
  (start b [requestWr a v, requestRd a]).RequestsWrite a v [requestRd a] ∧
  after (step (start b [requestWr a v, requestRd a])) State.bank = some (start b []).bank

theorem writeThenRead {b : Byte} {a : Addr} {v : Byte}
    (h : after (step (start b [requestWr a v, requestRd a])) State.bank = some (start b []).bank) : WriteThenRead b a v :=
  ⟨start_ram_wf b _, rfl, ⟨false, rfl⟩, h⟩

/-- R59's table: the rows of plain RAM and of the ROM windows, each at an end of its range, for each of its classes of banks. -/
theorem witness_ReadAfterWriteByRegion_memory :
    (WriteThenRead 0 0x9FFF 9 ∧ readAfterWrite cfg 0 0x9FFF 9 = some 9) ∧
    (WriteThenRead 7 1 0xFF ∧ readAfterWrite cfg 7 1 0xFF = some 0xFF) ∧
    (WriteThenRead 5 0xCFFF 9 ∧ readAfterWrite cfg 5 0xCFFF 9 = some 9) ∧
    (WriteThenRead 2 0xA000 9 ∧ readAfterWrite cfg 2 0xA000 9 = some 9) ∧
    (WriteThenRead 6 0xBFFF 9 ∧ readAfterWrite cfg 6 0xBFFF 9 = some 9) ∧
    (WriteThenRead 3 0xA000 9 ∧ readAfterWrite cfg 3 0xA000 9 = some 0x94) ∧
    (WriteThenRead 7 0xBFFF 9 ∧ readAfterWrite cfg 7 0xBFFF 9 = some 0x94) ∧
    (WriteThenRead 1 0xE000 9 ∧ readAfterWrite cfg 1 0xE000 9 = some 9) ∧
    (WriteThenRead 5 0xFFFF 9 ∧ readAfterWrite cfg 5 0xFFFF 9 = some 9) ∧
    (WriteThenRead 2 0xE000 9 ∧ readAfterWrite cfg 2 0xE000 9 = some 0xE2) ∧
    (WriteThenRead 7 0xFFFF 9 ∧ readAfterWrite cfg 7 0xFFFF 9 = some 0xE2) := by
  refine ⟨⟨writeThenRead ?_, ?_⟩, ⟨writeThenRead ?_, ?_⟩, ⟨writeThenRead ?_, ?_⟩, ⟨writeThenRead ?_, ?_⟩,
    ⟨writeThenRead ?_, ?_⟩, ⟨writeThenRead ?_, ?_⟩, ⟨writeThenRead ?_, ?_⟩, ⟨writeThenRead ?_, ?_⟩, ⟨writeThenRead ?_, ?_⟩,
    ⟨writeThenRead ?_, ?_⟩, ⟨writeThenRead ?_, ?_⟩⟩ <;> decide +kernel

/-- R59's table: the rows of the register window, banks 0 and 4, banks 1 to 3 (the character image; 0x18 is glyph 1's first
row), banks 5 to 7, and the write that faults. -/
theorem witness_ReadAfterWriteByRegion :
    (WriteThenRead 0 0xD000 9 ∧ readAfterWrite cfg 0 0xD000 9 = some 9) ∧
    (WriteThenRead 4 0xDFFF 9 ∧ readAfterWrite cfg 4 0xDFFF 9 = some 9) ∧
    (WriteThenRead 1 0xD008 9 ∧ readAfterWrite cfg 1 0xD008 9 = some 0x18) ∧
    (WriteThenRead 3 0xDDFF 9 ∧ readAfterWrite cfg 3 0xDDFF 9 = some 0) ∧
    (WriteThenRead 7 0xD3FF 9 ∧ readAfterWrite cfg 7 0xD3FF 9 = some 0) ∧
    (WriteThenRead 5 0xD400 9 ∧ readAfterWrite cfg 5 0xD400 9 = some 0x55) ∧
    (WriteThenRead 7 0xD800 0xFE ∧ readAfterWrite cfg 7 0xD800 0xFE = some 0x0E) ∧
    (WriteThenRead 6 0xDBFF 0xFE ∧ readAfterWrite cfg 6 0xDBFF 0xFE = some 0x0E) ∧
    (WriteThenRead 7 0xDCF3 9 ∧ readAfterWrite cfg 7 0xDCF3 9 = some 9) ∧
    (WriteThenRead 7 0xDCFF 9 ∧ readAfterWrite cfg 7 0xDCFF 9 = some 0) ∧
    (WriteThenRead 5 0xDD00 9 ∧ readAfterWrite cfg 5 0xDD00 9 = some 0) ∧
    (WriteThenRead 1 0xDE00 9 ∧ readAfterWrite cfg 1 0xDE00 9 = none) ∧
    (WriteThenRead 7 0xDFFF 9 ∧ readAfterWrite cfg 7 0xDFFF 9 = none) := by
  refine ⟨⟨writeThenRead ?_, ?_⟩, ⟨writeThenRead ?_, ?_⟩, ⟨writeThenRead ?_, ?_⟩, ⟨writeThenRead ?_, ?_⟩,
    ⟨writeThenRead ?_, ?_⟩, ⟨writeThenRead ?_, ?_⟩, ⟨writeThenRead ?_, ?_⟩, ⟨writeThenRead ?_, ?_⟩, ⟨writeThenRead ?_, ?_⟩,
    ⟨writeThenRead ?_, ?_⟩, ⟨writeThenRead ?_, ?_⟩, ⟨writeThenRead ?_, ?_⟩, ⟨writeThenRead ?_, ?_⟩⟩ <;> decide +kernel

theorem witness_BankIsObservedFreshOnEveryAccess : (start 7 [requestWr 1 0xFD, requestRd 0xA000]).Admits ∧
    Memory.wf 65536 (start 7 [requestWr 1 0xFD, requestRd 0xA000]).ram = true ∧
    (start 7 [requestWr 1 0xFD, requestRd 0xA000]).requests = requestWr 1 0xFD :: requestRd 0xA000 :: [] ∧
    (requestWr 1 0xFD).word = mkWord 1 0 1 0xFD ∧
    decodeRequest ((0xFD : Byte).extractLsb' 0 3) (requestRd 0xA000).word = .ok (.rdRam 5 0xA000) ∧
    decodeRequest (((start 7 [requestRd 0xA000]).ramByte 1).extractLsb' 0 3) (requestRd 0xA000).word = .ok (.rdBasic 7 0xA000) :=
  ⟨start_admits 7 _, start_ram_wf 7 _, rfl, rfl, by decide, by decide⟩

/-- The bank changes by a WR of $0001 and by RESET. -/
theorem witness_BankChangesOnlyByAWriteOfItsCell : Memory.wf 65536 (start 7 [requestWr 1 5]).ram = true ∧
    (∃ t, step (start 7 [requestWr 1 5]) = .next t ∧ t.bank ≠ (start 7 []).bank) ∧
    (∃ t, step (start 4 [requestReset]) = .next t ∧ t.bank ≠ (start 4 []).bank) :=
  ⟨start_ram_wf 7 _, ⟨_, rfl, by decide⟩, ⟨_, rfl, by decide⟩⟩

theorem witness_BankCellReadsBackWhole : (start 0xFF [requestRd 1]).Admits ∧ (start 0xFF [requestRd 1]).RequestsRead 1 [] :=
  ⟨start_admits 0xFF _, 0, false, rfl⟩

theorem witness_SelIsTheResolvedTarget : (∃ t, step (start 7 [requestRd 0xD000]) = .next t) ∧ opField (requestRd 0xD000).word = 0 ∧
    (∃ t, step (start 7 [requestWr 0xD000 1]) = .next t) ∧ opField (requestWr 0xD000 1).word = 1 ∧
    (∃ t, step (start 7 [requestReset]) = .next t) ∧ 2 ≤ (opField requestReset.word).toNat :=
  ⟨⟨_, rfl⟩, by decide, ⟨_, rfl⟩, by decide, ⟨_, rfl⟩, by decide⟩

theorem witness_LivePortReadsBackAtEveryMirror : (start 5 [requestWr 0xDC03 9, requestRd 0xDCF3]).Admits ∧
    (start 5 []).bank = 5 ∧ (0xDCF3 : Addr).toNat % 16 = (0xDC03 : Addr).toNat % 16 ∧ iotaIsLive cfg (ioIndex 0xDC03) = true ∧
    (start 5 [requestWr 0xDC03 9, requestRd 0xDCF3]).RequestsWrite 0xDC03 9 [requestRd 0xDCF3] :=
  ⟨start_admits 5 _, by decide, by decide, by decide, false, rfl⟩

/-- A step that logs, and one that sets the latch. -/
theorem witness_LogIsAppendOnly : (∃ t, step (start 7 [requestRd 0xDE00]) = .next t ∧ t.diag ≠ []) ∧
    opField (requestRd 0xDE00).word ≠ 3 ∧ (∃ t, step (start 7 [requestWr 0xDE00 1]) = .next t ∧ t.fault ≠ none) :=
  ⟨⟨_, rfl, by decide⟩, by decide, ⟨_, rfl, by decide⟩⟩

theorem witness_LogsAreNeverRead :
    (start 7 [requestRd 0]).SameButLogs (((start 7 [requestRd 0]).capture 0xD000 1).emit .unhandledHardwareRead 0xDE00 0) := rfl

theorem witness_OnlyByteAccessesAreDefined : (0 : Nat) ≠ 1 ∧ (2 : Nat) ≠ 1 := by decide

theorem witness_OnlyResetIsAdmittedWhileFaulted : (faulted []).CfgValid ∧
    (faulted []).fault = some ⟨.unknownHardwareWrite, 0xDF00, 1⟩ ∧ Instr.frame ≠ .reset ∧ (start 7 []).fault = none :=
  ⟨cfg_valid, rfl, by decide, rfl⟩

/-- The latch is set, and cleared. -/
theorem witness_LatchIsSetByUnmappedWritesAndClearedByReset :
    (∃ t f, step (start 1 [requestWr 0xDE00 1]) = .next t ∧ t.fault = some f) ∧
    (∃ t, step (faulted [requestReset]) = .next t) ∧ (faulted [requestReset]).fault ≠ none :=
  ⟨⟨_, _, rfl, rfl⟩, ⟨_, rfl⟩, by decide⟩

theorem witness_UnmappedRangeIsFatalToWritesOnly : (start 4 [requestWr 0xDE00 1]).Admits ∧
    Memory.wf 65536 (start 4 [requestWr 0xDE00 1]).ram = true ∧
    ((start 4 [requestWr 0xDE00 1]).RequestsWrite 0xDE00 1 [] ∧ (start 4 []).bank = 4) ∧
    ((start 7 [requestWr 0xDFFF 1]).RequestsWrite 0xDFFF 1 [] ∧ (start 7 []).bank ≠ 0 ∧ (start 7 []).bank ≠ 4) ∧
    (start 7 [requestRd 0xDFFF]).RequestsRead 0xDFFF [] :=
  ⟨start_admits 4 _, start_ram_wf 4 _, ⟨⟨false, rfl⟩, by decide⟩, ⟨⟨false, rfl⟩, by decide, by decide⟩, 0, false, rfl⟩

theorem witness_BrokenConfigurationIsRefused : { cfg with ram1Reset := 0x06 }.ram1Reset.toNat % 8 ≠ 7 ∧
    1024 < { cfg with rows := 33, cols := 32 }.rows * { cfg with rows := 33, cols := 32 }.cols := by decide

theorem witness_RomImagesAreNeverMutated : ∃ t, step (start 7 [requestWr 0xA000 0x55]) = .next t := ⟨_, rfl⟩

theorem witness_FramePixelsAreLayered : (start 7 []).Admits := start_admits 7 []

theorem witness_RenderPaintsTheGlyphBits : Framebuffer.Shaped 16 8 (Framebuffer.filled 16 8 7) ∧
    0 + 8 * cfg.cols ≤ 16 ∧ 0 + 8 * cfg.rows ≤ 8 ∧ 1 < cfg.rows * cfg.cols ∧
    ¬ (0 ≤ 16 ∧ 16 < 0 + 8 * cfg.cols ∧ 0 ≤ 7 ∧ 7 < 0 + 8 * cfg.rows) := ⟨filled_shaped 16 8 7, by decide⟩

theorem witness_EmptyGlyphIsTransparent : 1 < cfg.rows * cfg.cols ∧ (frameArgs (start 7 [])).background = none ∧
    ∀ y, y < 8 → (frameArgs (start 7 [])).glyphRom
      (8 * (((frameArgs (start 7 [])).videoBuffer 1).toNat + cfg.codepageOffset) + y) = 0 := ⟨by decide, rfl, by decide⟩

/-- Two states that differ in the bank, the ports, the shadow buffer and the previous framebuffer. -/
theorem witness_FrameDependsOnTheDisplayStateOnly : (start 7 []).Admits ∧ (start 4 []).Admits ∧
    (start 7 []).SameDisplay ((start 4 []).storeFb []) := by
  refine ⟨start_admits 7 [], start_admits 4 [], rfl, rfl, rfl, rfl, ?_, by decide, by decide, by decide⟩
  intro i hi
  have hi : i < 2 := hi
  obtain rfl | rfl : i = 0 ∨ i = 1 := by omega
  all_goals decide

theorem witness_BackgroundWriteRecoloursTheNextFrame : (start 7 []).Admits ∧ textPixel? (start 7 []) 15 7 = none ∧
    cursorPixel? (start 7 []) 15 7 = none := ⟨start_admits 7 [], by decide, by decide⟩

theorem witness_FramebufferHasNoValueBeforeTheFirstFrame : (faulted []).CfgValid := cfg_valid

theorem witness_ResetLeavesTheResetValues : (faulted []).CfgValid := cfg_valid

theorem witness_FirstFrameAfterReset : (start 7 []).CfgValid ∧ (start 7 []).cursorVisible = false ∧
    ¬ ((start 7 []).cfg.screenBase.toNat ≤ 1 ∧
      1 < (start 7 []).cfg.screenBase.toNat + (start 7 []).cfg.rows * (start 7 []).cfg.cols) := ⟨cfg_valid, rfl, by decide⟩

theorem witness_InvariantHoldsAfterReset : cfg.valid = true := cfg_valid

theorem start_inv (b : Byte) (l : List Request) : (start b l).Inv where
  ramWf := start_ram_wf b l
  shadowWf := rfl
  deadIota := fun r _ => by simp [State.iotaByte, start, State.resetOf]
  fbShaped := fun _ h => nomatch h
  fbColoured := fun _ h => nomatch h
  faultLegal := fun _ h => nomatch h
  diagLegal := fun _ h => nomatch h
  diagOutLogged := fun _ h => nomatch h
  faultOrDiag := fun h => nomatch h

theorem witness_EveryStepKeepsTheInvariant : (start 7 [requestWr 0xDFFF 9]).Inv ∧
    ∃ t, step (start 7 [requestWr 0xDFFF 9]) = .next t := ⟨start_inv 7 _, _, rfl⟩

end Sys2Proof.Tests
end

section
/-! PROOFS. The family 10_state: bank-select, the ROM images, and that a step runs what its request decodes to. First what a
word that decodes fixes of its operation, and what an operation can do to `ram` and `cfg`; then the four statements. -/

namespace Sys2Proof

/-! What a word that decodes fixes of its operation (R61, R62). -/

/-- The operation code of a built operation comes from its mnemonic alone. -/
theorem opCodeOf_build_eq (m : Mnemonic) (t u : OpWord) : opCodeOf (m.build t) = opCodeOf (m.build u) := by
  cases m <;> rfl

/-- A built write takes its address and its data from the word. -/
theorem build_write_operands {m : Mnemonic} {t : OpWord} (h : opCodeOf (m.build t) = 1) :
    addrOf (m.build t) = addrField t ∧ dataOf (m.build t) = dataField t := by
  cases m
  case wrRam | wrColor | wrSound | wrVideo | wrIota | wrIotb | wrUnmapped => exact ⟨rfl, rfl⟩
  all_goals exact absurd h (by simp [Mnemonic.build, opCodeOf])

/-- The row's pattern has the operation code of the row's mnemonic. -/
theorem decodeTable_opCode : ∀ r ∈ decodeTable, opField r.pattern = opCodeOf (r.mnemonic.build 0) := by decide

/-- What decodes is what a matching row of the table builds. -/
theorem decode_ok {t : OpWord} {i : Instr} (h : decode t = .ok i) :
    ∃ r ∈ decodeTable, r.matches t = true ∧ i = r.mnemonic.build t := by
  unfold decode at h
  cases hr : selectRow t with
  | none =>
    simp only [hr] at h
    split at h <;> cases h
  | some r =>
    simp only [hr] at h
    cases h
    exact ⟨r, List.mem_of_find?_eq_some hr, List.find?_some (p := fun x : Row => x.matches t) hr, rfl⟩

theorem opField_of_decode {t : OpWord} {i : Instr} (h : decode t = .ok i) : opField t = opCodeOf i := by
  obtain ⟨r, hmem, hmatch, rfl⟩ := decode_ok h
  rw [Row.op_of_matches (decodeTable_op r hmem) hmatch, decodeTable_opCode r hmem]
  exact opCodeOf_build_eq _ _ _

theorem operands_of_decode_write {t : OpWord} {i : Instr} (h : decode t = .ok i) (hw : opCodeOf i = 1) :
    addrField t = addrOf i ∧ dataField t = dataOf i := by
  obtain ⟨r, -, -, rfl⟩ := decode_ok h
  obtain ⟨ha, hd⟩ := build_write_operands hw
  exact ⟨ha.symm, hd.symm⟩

/-! Forming the decode word changes the bank bits alone (R62). -/

@[simp] theorem opField_formDecodeWord (b : Bank) (q : OpWord) : opField (formDecodeWord b q) = opField q := by
  unfold formDecodeWord
  split <;> simp

@[simp] theorem addrField_formDecodeWord (b : Bank) (q : OpWord) : addrField (formDecodeWord b q) = addrField q := by
  unfold formDecodeWord
  split <;> simp

@[simp] theorem dataField_formDecodeWord (b : Bank) (q : OpWord) : dataField (formDecodeWord b q) = dataField q := by
  unfold formDecodeWord
  split <;> simp

/-- A request that decodes is not reserved, and decodes as its decode word does. -/
theorem decode_of_decodeRequest {b : Bank} {q : OpWord} {i : Instr} (h : decodeRequest b q = .ok i) :
    decode (formDecodeWord b q) = .ok i := by
  unfold decodeRequest at h
  split at h
  · cases h
  · exact h

theorem opField_of_decodeRequest {b : Bank} {q : OpWord} {i : Instr} (h : decodeRequest b q = .ok i) :
    opField q = opCodeOf i := by
  simpa using opField_of_decode (decode_of_decodeRequest h)

theorem operands_of_decodeRequest_write {b : Bank} {q : OpWord} {i : Instr} (h : decodeRequest b q = .ok i)
    (hw : opCodeOf i = 1) : addrField q = addrOf i ∧ dataField q = dataOf i := by
  simpa using operands_of_decode_write (decode_of_decodeRequest h) hw

/-- A RD or WR request decodes as the decode word of its fields under the bank (R62). -/
theorem decodeRequest_mkWord {op : BitVec 4} (hop : op = 0 ∨ op = 1) (b : Bank) (a : Addr) (d : Byte) :
    decodeRequest b (mkWord op 0 a d) = decode (mkWord op b a d) := by
  obtain rfl | rfl := hop <;> simp [decodeRequest, formDecodeWord]

/-- In page 0 a write selects the first row of WR.RAM, under every bank (R67). -/
theorem selectRow_write_pageZero (b : Bank) {a : Addr} (ha : a.extractLsb' 8 8 = 0) (d : Byte) :
    selectRow (mkWord 1 b a d) = some ⟨.wrRam, 0x10000000, 0xF8800000⟩ := by
  rw [selectRow_eq_high, high_mkWord, ha]
  revert b
  decide

/-- A WR request of $0001 is a WR.RAM under every bank (R21, R91). -/
theorem decodeRequest_write_bankCell (b : Bank) (v : Byte) :
    decodeRequest b (mkWord 1 0 1 v) = .ok (.wrRam b 1 v) := by
  rw [decodeRequest_mkWord (.inr rfl), decode, selectRow_write_pageZero b (a := 1) (by decide) v]
  simp [Mnemonic.build]

end Sys2Proof

namespace Sys2Proof.Machine

/-! What a step runs, and what it can do to `cfg` and `ram`. -/

/-- A head request that decodes under the bank of this moment is run. -/
theorem step_of_decodeRequest {s : State} {r : Request} {rest : List Request} {i : Instr}
    (hr : s.requests = r :: rest) (hd : decodeRequest s.bank r.word = .ok i) : step s = exec i (s.served r rest) := by
  have hfetch : s.fetch = some (r.word, s.served r rest) := by simp [State.fetch, hr, State.served]
  simp [step, hfetch, hd]

/-- No operation touches the configuration, RESET neither (R136). -/
@[simp] theorem effect_cfg (i : Instr) (s : State) : (effect i s).cfg = s.cfg := by
  cases i with
  | rdIota | wrVideo | wrIota => simp only [effect]; split <;> simp
  | _ => simp [effect]

theorem step_cfg {s t : State} (h : step s = .next t) : t.cfg = s.cfg := by
  obtain ⟨r, rest, i, -, -, hx⟩ := step_next h
  obtain ⟨-, -, rfl⟩ := exec_next hx
  simp

/-- Only WR.RAM and RESET touch `ram` (R46, R99, R107). -/
theorem effect_ram_cases (i : Instr) (s : State) :
    (∃ b a d, i = .wrRam b a d) ∨ i = .reset ∨ (effect i s).ram = s.ram := by
  cases i with
  | wrRam b a d => exact .inl ⟨b, a, d, rfl⟩
  | reset => exact .inr (.inl rfl)
  | rdIota | wrVideo | wrIota => refine .inr (.inr ?_); simp only [effect]; split <;> simp
  | _ => simp [effect]

/-- The bank is a view of `ram`. -/
theorem bank_eq_of_ram_eq {s t : State} (h : t.ram = s.ram) : t.bank = s.bank := by
  simp only [State.bank, State.ramByte, h]

theorem effect_wrRam_ramByte {s : State} (hwf : Memory.wf 65536 s.ram = true) (b : Bank) (a x : Addr) (v : Byte) :
    (effect (.wrRam b a v) s).ramByte x = if x = a then v else s.ramByte x := by
  simp only [effect]
  rw [storeRam_ramByte (by simpa using hwf), accept_ramByte]

/-- An operation that changes the bank is RESET or a WR.RAM of $0001 (R21). -/
theorem effect_bank_ne {i : Instr} {s : State} (hwf : Memory.wf 65536 s.ram = true) (h : (effect i s).bank ≠ s.bank) :
    i = .reset ∨ ∃ b d, i = .wrRam b 1 d := by
  obtain ⟨b, a, d, rfl⟩ | rfl | hram := effect_ram_cases i s
  · by_cases ha : 1 = a
    · exact .inr ⟨b, d, by rw [ha]⟩
    · exact absurd (by simp only [State.bank, effect_wrRam_ramByte hwf, if_neg ha]) h
  · exact .inl rfl
  · exact absurd (bank_eq_of_ram_eq hram) h

/-- The write rule never answers a ROM (R63, R91). -/
theorem writeTarget_ne_rom (b : Bank) (a : Addr) :
    writeTarget b a ≠ .basic ∧ writeTarget b a ≠ .kernal ∧ writeTarget b a ≠ .char := by
  unfold writeTarget
  split
  · decide
  · next h =>
    have hwindow : 0xD000 ≤ a.toNat ∧ a.toNat ≤ 0xDFFF := by_contra fun hout => h (.inr hout)
    obtain ⟨e, -⟩ | ⟨e, -⟩ | ⟨e, -⟩ | ⟨e, -⟩ | ⟨e, -⟩ | ⟨e, -⟩ := registerTarget_range hwindow <;> simp [e]

/-- Settles O9: the fetch takes the head request, and the bank of the served state is the bank of the state. -/
theorem stepRunsTheDecodedOperation : Obligations.StepRunsTheDecodedOperation :=
  fun _ _ _ _ hr hd => step_of_decodeRequest hr hd

/-- Settles O32: the bank is by definition the low three bits of `ram[1]`; the WR of $0001 is a WR.RAM under every bank, its
byte is what `ram[1]` then holds, and the request after it decodes under that byte. -/
theorem bankIsObservedFreshOnEveryAccess : Obligations.BankIsObservedFreshOnEveryAccess := by
  refine ⟨fun s r rest i hr hd => step_of_decodeRequest hr hd, ?_⟩
  intro s v w r rest hadm hwf hreq hw
  have hstep : step s = exec (.wrRam s.bank 1 v) (s.served w (r :: rest)) :=
    step_of_decodeRequest hreq (hw ▸ decodeRequest_write_bankCell s.bank v)
  have hcell : (effect (.wrRam s.bank 1 v) (s.served w (r :: rest))).ramByte 1 = v := by
    rw [effect_wrRam_ramByte (by simpa using hwf), if_pos rfl]
  have hbank : (effect (.wrRam s.bank 1 v) (s.served w (r :: rest))).bank = v.extractLsb' 0 3 := by
    rw [State.bank, hcell]
  refine ⟨hstep, _, hstep.trans (exec_of_admits ((served_admits _ _ _).mpr hadm) _), hcell, ?_, ?_⟩
  · rw [hbank]
    simp
  · exact fun i hd => step_of_decodeRequest rfl (hbank ▸ hd)

/-- Settles O33: a step that changes the bank runs RESET or a WR.RAM of $0001, and the request word holds that operation's
code, address and data. -/
theorem bankChangesOnlyByAWriteOfItsCell : Obligations.BankChangesOnlyByAWriteOfItsCell := by
  intro s t r rest hwf hreq hstep hne
  obtain ⟨r', rest', i, hreq', hd, hx⟩ := step_next hstep
  obtain ⟨rfl, rfl⟩ : r = r' ∧ rest = rest' := by simpa [hreq] using hreq'
  obtain ⟨-, -, rfl⟩ := exec_next hx
  have hwf' : Memory.wf 65536 (s.served r rest).ram = true := by simpa using hwf
  have hop := opField_of_decodeRequest hd
  obtain rfl | ⟨b, d, rfl⟩ := effect_bank_ne hwf' (by simpa using hne)
  · exact .inl hop
  · obtain ⟨haddr, hdata⟩ := operands_of_decodeRequest_write hd rfl
    refine .inr ⟨hop, haddr, ?_⟩
    rw [effect_wrRam_ramByte hwf', if_pos rfl, hdata]
    rfl

/-- Settles O44: every step keeps the whole configuration, of which the images are part, and the write rule answers RAM or a
register target. -/
theorem romImagesAreNeverMutated : Obligations.RomImagesAreNeverMutated := by
  refine ⟨fun s t h => ?_, writeTarget_ne_rom⟩
  have hcfg := step_cfg h
  exact ⟨by rw [hcfg], by rw [hcfg], by rw [hcfg], hcfg⟩

end Sys2Proof.Machine
end

section
/-! PROOFS. The family 30_encoding: the decode table against the priority chains, the write rule and the Encoding clauses. The
table's masks keep leading bits of the address only, so rows, chains and clauses alike cut the address map at the same eleven
places. All three look at the bank and at the segment of the address, and are compared segment by segment. -/

namespace Sys2Proof

/-! The mnemonic the table chooses is the operation (R64). -/

/-- A word whose row is found decodes to what the row's mnemonic builds. -/
theorem decode_of_mnemonic {t : OpWord} {m : Mnemonic} (h : (selectRow t).map Row.mnemonic = some m) :
    decode t = .ok (m.build t) := by
  obtain ⟨r, hr, rfl⟩ := Option.map_eq_some_iff.mp h
  simp [decode, hr]

/-! A row's condition, field by field. -/

/-- A masked word whose bit 27 is clear, from its fields. -/
theorem and_eq_mkWord {t m : OpWord} (h : (t &&& m).getLsbD 27 = false) :
    t &&& m = mkWord (opField t &&& opField m) (bankField t &&& bankField m) (addrField t &&& addrField m)
      (dataField t &&& dataField m) := by
  simpa [opField, bankField, addrField, dataField, BitVec.extractLsb'_and] using (mkWord_fields (t &&& m) h).symm

theorem mkWord_bit27 (op : BitVec 4) (b : Bank) (a : Addr) (d : Byte) : (mkWord op b a d).getLsbD 27 = false := by
  rw [BitVec.getLsbD, Nat.testBit_eq_decide_div_mod_eq, mkWord_toNat]
  have := b.isLt
  have := a.isLt
  have := d.isLt
  simp only [decide_eq_false_iff_not]
  omega

theorem mkWord_inj {op op' : BitVec 4} {b b' : Bank} {a a' : Addr} {d d' : Byte} :
    mkWord op b a d = mkWord op' b' a' d' ↔ op = op' ∧ b = b' ∧ a = a' ∧ d = d' := by
  refine ⟨fun h => ?_, by rintro ⟨rfl, rfl, rfl, rfl⟩; rfl⟩
  exact ⟨by simpa using congrArg opField h, by simpa using congrArg bankField h,
    by simpa using congrArg addrField h, by simpa using congrArg dataField h⟩

/-- A row selects a word built from fields iff it selects each field. -/
theorem Row.matches_mkWord {r : Row} (hr : r.pattern.getLsbD 27 = false) (op : BitVec 4) (b : Bank) (a : Addr) (d : Byte) :
    r.matches (mkWord op b a d) = true ↔
      op &&& opField r.mask = opField r.pattern ∧ b &&& bankField r.mask = bankField r.pattern ∧
      a &&& addrField r.mask = addrField r.pattern ∧ d &&& dataField r.mask = dataField r.pattern := by
  have h27 : (mkWord op b a d &&& r.mask).getLsbD 27 = false := by rw [BitVec.getLsbD_and, mkWord_bit27, Bool.false_and]
  rw [Row.matches, beq_iff_eq, and_eq_mkWord h27]
  nth_rw 1 [← mkWord_fields r.pattern hr]
  rw [mkWord_inj]
  simp

/-- Every row of RD and WR wants `rsv` to be 0 (R62). -/
theorem bit27_of_decode {t : OpWord} {i : Instr} (h : decode t = .ok i) (hop : opField t = 0 ∨ opField t = 1) :
    t.getLsbD 27 = false := by
  have rows : ∀ r ∈ decodeTable, (opField r.pattern = 0 ∨ opField r.pattern = 1) →
      r.mask.getLsbD 27 = true ∧ r.pattern.getLsbD 27 = false := by decide
  obtain ⟨r, hmem, hmatch, -⟩ := decode_ok h
  rw [Row.op_of_matches (decodeTable_op r hmem) hmatch] at hop
  obtain ⟨hmask, hpattern⟩ := rows r hmem hop
  have hand : t &&& r.mask = r.pattern := by simpa [Row.matches] using hmatch
  rwa [← hand, BitVec.getLsbD_and, hmask, Bool.and_true] at hpattern

/-- A RD or WR word that decodes is built from its fields. -/
theorem exists_mkWord_of_decode {t : OpWord} {i : Instr} {op : BitVec 4} (h : decode t = .ok i) (hop : opField t = op)
    (hrw : op = 0 ∨ op = 1) : ∃ b a d, t = mkWord op b a d := by
  subst hop
  exact ⟨_, _, _, (mkWord_fields t (bit27_of_decode h hrw)).symm⟩

/-- The bits that a read does not ignore (R61). -/
theorem mkWord_and_clearData (op : BitVec 4) (b : Bank) (a : Addr) (d : Byte) :
    mkWord op b a d &&& 0xFFFFFF00 = mkWord op b a 0 := by
  rw [and_eq_mkWord (by rw [BitVec.getLsbD_and, mkWord_bit27, Bool.false_and]), mkWord_inj, opField_mkWord,
    bankField_mkWord, addrField_mkWord, dataField_mkWord]
  exact ⟨BitVec.and_allOnes, BitVec.and_allOnes, BitVec.and_allOnes, BitVec.and_zero⟩

/-- The bits that FRAME and RESET do not ignore (R61). -/
theorem and_opMask (t : OpWord) : t &&& 0xF0000000 = mkWord (opField t) 0 0 0 := by
  rw [and_eq_mkWord (by simp), mkWord_inj]
  exact ⟨BitVec.and_allOnes, BitVec.and_zero, BitVec.and_zero, BitVec.and_zero⟩

/-! The segments of the address map. -/

/-- The first addresses of the segments. -/
def segmentStarts : List Addr :=
  [0x0000, 0x8000, 0xA000, 0xC000, 0xD000, 0xD400, 0xD800, 0xDC00, 0xDD00, 0xDE00, 0xE000]

/-- Where one segment of the address map ends and the next begins, both ends of the map included: no row of the table and no
range of the chains begins or ends anywhere else. -/
def segmentBounds : List Nat := segmentStarts.map BitVec.toNat ++ [0x10000]

/-- The first address of the segment of an address. -/
def segmentStart (a : Addr) : Addr :=
  if a.toNat < 0x8000 then 0x0000
  else if a.toNat < 0xA000 then 0x8000
  else if a.toNat < 0xC000 then 0xA000
  else if a.toNat < 0xD000 then 0xC000
  else if a.toNat < 0xD400 then 0xD000
  else if a.toNat < 0xD800 then 0xD400
  else if a.toNat < 0xDC00 then 0xD800
  else if a.toNat < 0xDD00 then 0xDC00
  else if a.toNat < 0xDE00 then 0xDD00
  else if a.toNat < 0xE000 then 0xDE00
  else 0xE000

theorem segmentStart_mem (a : Addr) : segmentStart a ∈ segmentStarts := by
  unfold segmentStart
  repeat' split
  all_goals decide

/-- A bound is at or below an address iff it is at or below the first address of its segment. -/
theorem bound_le_segmentStart {c : Nat} (hc : c ∈ segmentBounds) (a : Addr) :
    c ≤ (segmentStart a).toNat ↔ c ≤ a.toNat := by
  have := a.isLt
  have hc : c ∈ [0x0000, 0x8000, 0xA000, 0xC000, 0xD000, 0xD400, 0xD800, 0xDC00, 0xDD00, 0xDE00, 0xE000, 0x10000] := hc
  simp only [List.mem_cons, List.not_mem_nil, or_false] at hc
  unfold segmentStart
  repeat' split
  all_goals simp
  all_goals omega

/-- What holds at every bank and every segment's first address, a finite check, holds at the segment of every address. -/
theorem forall_segmentStart {P : Bank → Addr → Prop} [∀ b s, Decidable (P b s)]
    (h : segmentStarts.all (fun s => decide (∀ b, P b s)) = true) (b : Bank) (a : Addr) : P b (segmentStart a) :=
  of_decide_eq_true (List.all_eq_true.mp h _ (segmentStart_mem a)) b

/-- An address lies between two bounds iff the first address of its segment does. -/
theorem segmentStart_span {lo hi : Nat} (hlo : lo ∈ segmentBounds) (hhi : hi + 1 ∈ segmentBounds) (a : Addr) :
    (lo ≤ (segmentStart a).toNat ∧ (segmentStart a).toNat ≤ hi) = (lo ≤ a.toNat ∧ a.toNat ≤ hi) := by
  have h1 := bound_le_segmentStart hlo a
  have h2 := bound_le_segmentStart hhi a
  rw [eq_iff_iff]
  omega

/-- An address under a mask of its leading bits: which addresses have the leading bits of `p`. -/
theorem and_leadingMask_eq_iff {a p : Addr} {n : Nat} (hp : 2 ^ n ∣ p.toNat) :
    a &&& (BitVec.allOnes 16 <<< n) = p ↔ p.toNat ≤ a.toNat ∧ a.toNat ≤ p.toNat + (2 ^ n - 1) := by
  have hpos := Nat.two_pow_pos n
  obtain ⟨k, hk⟩ := dvd_iff_exists_eq_mul_left.mp hp
  have hlt : a.toNat / 2 ^ n * 2 ^ n < 2 ^ 16 := (Nat.div_mul_le_self _ _).trans_lt a.isLt
  have hmasked : (a &&& (BitVec.allOnes 16 <<< n)).toNat = a.toNat / 2 ^ n * 2 ^ n := by
    rw [← BitVec.shiftLeft_ushiftRight, BitVec.toNat_shiftLeft, BitVec.toNat_ushiftRight, Nat.shiftRight_eq_div_pow,
      Nat.shiftLeft_eq, Nat.mod_eq_of_lt hlt]
  rw [BitVec.toNat_eq, hmasked, hk, Nat.mul_left_inj hpos.ne', Nat.div_eq_iff hpos]
  omega

/-- A row whose address condition is a span between two bounds, and that has none on the data. -/
def Row.Segmented (r : Row) : Prop :=
  r.pattern.getLsbD 27 = false ∧ dataField r.mask = 0 ∧
  ∃ n ≤ 16, addrField r.mask = BitVec.allOnes 16 <<< n ∧ 2 ^ n ∣ (addrField r.pattern).toNat ∧
    (addrField r.pattern).toNat ∈ segmentBounds ∧ (addrField r.pattern).toNat + (2 ^ n - 1) + 1 ∈ segmentBounds

theorem decodeTable_segmented : ∀ r ∈ decodeTable, r.Segmented := by
  unfold Row.Segmented
  decide

/-- A segmented row looks at the segment of the address only. -/
theorem Row.matches_segment {r : Row} (hr : r.Segmented) (op : BitVec 4) (b : Bank) (a : Addr) (d : Byte) :
    r.matches (mkWord op b a d) = r.matches (mkWord op b (segmentStart a) 0) := by
  obtain ⟨h27, hdata, n, -, hmask, hdvd, hlo, hhi⟩ := hr
  rw [Bool.eq_iff_iff, Row.matches_mkWord h27, Row.matches_mkWord h27, hmask, and_leadingMask_eq_iff hdvd,
    and_leadingMask_eq_iff hdvd, segmentStart_span hlo hhi, hdata]
  simp

theorem selectRow_segment (op : BitVec 4) (b : Bank) (a : Addr) (d : Byte) :
    selectRow (mkWord op b a d) = selectRow (mkWord op b (segmentStart a) 0) :=
  List.find?_congr fun r hr => Row.matches_segment (decodeTable_segmented r hr) op b a d

end Sys2Proof

namespace Sys2Proof.Machine

/-! The chains and the write rule look at the segment of the address only. -/

theorem within_segment {lo hi : Addr} (hlo : lo.toNat ∈ segmentBounds) (hhi : hi.toNat + 1 ∈ segmentBounds) (a : Addr) :
    Addr.within (segmentStart a) lo hi = Addr.within a lo hi := by
  rw [Bool.eq_iff_iff, within_iff, within_iff, segmentStart_span hlo hhi]

theorem regionHolds_segment (r : Region) (a : Addr) : regionHolds r (segmentStart a) = regionHolds r a := by
  cases r with
  | ram => rfl
  | basic => exact within_segment (lo := 0xA000) (hi := 0xBFFF) (by decide) (by decide) a
  | kernal => exact within_segment (lo := 0xE000) (hi := 0xFFFF) (by decide) (by decide) a
  | characterRom | registers => exact within_segment (lo := 0xD000) (hi := 0xDFFF) (by decide) (by decide) a

theorem registerTarget_segment (a : Addr) : registerTarget (segmentStart a) = registerTarget a := by
  unfold registerTarget
  simp (disch := decide) only [segmentStart_span]

theorem readTarget_segment (b : Bank) (a : Addr) : readTarget b (segmentStart a) = readTarget b a := by
  unfold readTarget
  simp only [regionHolds_segment]
  cases (chain b).find? (fun r => regionHolds r a) with
  | none => rfl
  | some r => cases r <;> simp only [regionTarget, registerTarget_segment]

theorem writeTarget_segment (b : Bank) (a : Addr) : writeTarget b (segmentStart a) = writeTarget b a := by
  unfold writeTarget
  simp (disch := decide) only [segmentStart_span, registerTarget_segment]

/-! The operations of a target. -/

/-- The mnemonic of the read of a target. -/
def readMnemonic : Target → Mnemonic
  | .ram => .rdRam
  | .basic => .rdBasic
  | .kernal => .rdKernal
  | .char => .rdChar
  | .color => .rdColor
  | .sound => .rdSound
  | .video => .rdVideo
  | .iota => .rdIota
  | .iotb => .rdIotb
  | .unmapped => .rdUnmapped

/-- The mnemonic of the write of a target; as in `writeInstr`, there is none of a ROM. -/
def writeMnemonic : Target → Mnemonic
  | .ram | .basic | .kernal | .char => .wrRam
  | .color => .wrColor
  | .sound => .wrSound
  | .video => .wrVideo
  | .iota => .wrIota
  | .iotb => .wrIotb
  | .unmapped => .wrUnmapped

theorem build_readMnemonic (t : Target) (b : Bank) (a : Addr) (d : Byte) :
    (readMnemonic t).build (mkWord 0 b a d) = readInstr t b a := by
  cases t <;> simp [readMnemonic, Mnemonic.build, readInstr]

theorem build_writeMnemonic (t : Target) (b : Bank) (a : Addr) (d : Byte) :
    (writeMnemonic t).build (mkWord 1 b a d) = writeInstr t b a d := by
  cases t <;> simp [writeMnemonic, Mnemonic.build, writeInstr]

theorem encode_readInstr (t : Target) (b : Bank) (a : Addr) : encode (readInstr t b a) = mkWord 0 b a 0 := by
  cases t <;> rfl

theorem encode_writeInstr (t : Target) (b : Bank) (a : Addr) (d : Byte) : encode (writeInstr t b a d) = mkWord 1 b a d := by
  cases t <;> rfl

/-- Every operation is the read or the write of a target, FRAME or RESET (R63). -/
theorem instr_cases (i : Instr) :
    (∃ t b a, i = readInstr t b a) ∨ (∃ t b a d, i = writeInstr t b a d) ∨ i = .frame ∨ i = .reset := by
  cases i with
  | rdRam b a => exact .inl ⟨.ram, b, a, rfl⟩
  | rdBasic b a => exact .inl ⟨.basic, b, a, rfl⟩
  | rdKernal b a => exact .inl ⟨.kernal, b, a, rfl⟩
  | rdChar b a => exact .inl ⟨.char, b, a, rfl⟩
  | rdColor b a => exact .inl ⟨.color, b, a, rfl⟩
  | rdSound b a => exact .inl ⟨.sound, b, a, rfl⟩
  | rdVideo b a => exact .inl ⟨.video, b, a, rfl⟩
  | rdIota b a => exact .inl ⟨.iota, b, a, rfl⟩
  | rdIotb b a => exact .inl ⟨.iotb, b, a, rfl⟩
  | rdUnmapped b a => exact .inl ⟨.unmapped, b, a, rfl⟩
  | wrRam b a d => exact .inr (.inl ⟨.ram, b, a, d, rfl⟩)
  | wrColor b a d => exact .inr (.inl ⟨.color, b, a, d, rfl⟩)
  | wrSound b a d => exact .inr (.inl ⟨.sound, b, a, d, rfl⟩)
  | wrVideo b a d => exact .inr (.inl ⟨.video, b, a, d, rfl⟩)
  | wrIota b a d => exact .inr (.inl ⟨.iota, b, a, d, rfl⟩)
  | wrIotb b a d => exact .inr (.inl ⟨.iotb, b, a, d, rfl⟩)
  | wrUnmapped b a d => exact .inr (.inl ⟨.unmapped, b, a, d, rfl⟩)
  | frame => exact .inr (.inr (.inl rfl))
  | reset => exact .inr (.inr (.inr rfl))

theorem opCodeOf_readInstr (t : Target) (b : Bank) (a : Addr) : opCodeOf (readInstr t b a) = 0 := by
  cases t <;> rfl

theorem opCodeOf_writeInstr (t : Target) (b : Bank) (a : Addr) (d : Byte) : opCodeOf (writeInstr t b a d) = 1 := by
  cases t <;> rfl

/-! The table against the chains and the write rule, segment by segment. -/

/-- The row of a read has the mnemonic of the chain's target (R65). -/
theorem mnemonic_selectRow_read (b : Bank) (a : Addr) (d : Byte) :
    (selectRow (mkWord 0 b a d)).map Row.mnemonic = some (readMnemonic (readTarget b a)) := by
  rw [selectRow_segment, ← readTarget_segment]
  exact forall_segmentStart
    (P := fun b s => (selectRow (mkWord 0 b s 0)).map Row.mnemonic = some (readMnemonic (readTarget b s)))
    (by decide) b a

/-- The row of a write has the mnemonic of the write rule's target (R67). -/
theorem mnemonic_selectRow_write (b : Bank) (a : Addr) (d : Byte) :
    (selectRow (mkWord 1 b a d)).map Row.mnemonic = some (writeMnemonic (writeTarget b a)) := by
  rw [selectRow_segment, ← writeTarget_segment]
  exact forall_segmentStart
    (P := fun b s => (selectRow (mkWord 1 b s 0)).map Row.mnemonic = some (writeMnemonic (writeTarget b s)))
    (by decide) b a

/-- Settles O5: the table selects a row of the mnemonic of the chain's target. -/
theorem tableDecodesThePriorityChains : Obligations.TableDecodesThePriorityChains := fun b a d => by
  rw [decode_of_mnemonic (mnemonic_selectRow_read b a d), build_readMnemonic]

/-- Settles O6: the table selects a row of the mnemonic of the write rule's target. -/
theorem tableDecodesTheWriteRule : Obligations.TableDecodesTheWriteRule := fun b a d => by
  rw [decode_of_mnemonic (mnemonic_selectRow_write b a d), build_writeMnemonic]

/-! Well-formed is resolved: the ranges of the Encoding clauses against the chains and the write rule. -/

theorem readInstr_wf_segment (t : Target) (b : Bank) (a : Addr) :
    (readInstr t b (segmentStart a)).wf = (readInstr t b a).wf := by
  cases t <;> simp (disch := decide) only [readInstr, Instr.wf, basicVisible, kernalVisible, charVisible, registersVisible,
    Addr.inRegisterWindow, within_segment]

theorem writeInstr_wf_segment (t : Target) (b : Bank) (a : Addr) (d : Byte) :
    (writeInstr t b (segmentStart a) 0).wf = (writeInstr t b a d).wf := by
  cases t <;> simp (disch := decide) only [writeInstr, Instr.wf, onRegisterPath, Addr.inRegisterWindow, within_segment]

/-- A read is well-formed iff its target is the one the chain selects (R48). -/
theorem readInstr_wf_iff (t : Target) (b : Bank) (a : Addr) : (readInstr t b a).wf = true ↔ readTarget b a = t := by
  rw [← readInstr_wf_segment, ← readTarget_segment]
  refine forall_segmentStart (P := fun b s => (readInstr t b s).wf = true ↔ readTarget b s = t) ?_ b a
  cases t <;> decide

/-- A write is well-formed iff its mnemonic is the one the write rule selects (R48, R91). -/
theorem writeInstr_wf_iff (t : Target) (b : Bank) (a : Addr) (d : Byte) :
    (writeInstr t b a d).wf = true ↔ writeMnemonic (writeTarget b a) = writeMnemonic t := by
  rw [← writeInstr_wf_segment, ← writeTarget_segment]
  refine forall_segmentStart
    (P := fun b s => (writeInstr t b s 0).wf = true ↔ writeMnemonic (writeTarget b s) = writeMnemonic t) ?_ b a
  cases t <;> decide

/-- Settles O2: a well-formed read or write is the one that its word resolves to; the words of FRAME and RESET are two. -/
theorem encodedOperationDecodesBack : Obligations.EncodedOperationDecodesBack := by
  intro i hwf
  obtain ⟨t, b, a, rfl⟩ | ⟨t, b, a, d, rfl⟩ | rfl | rfl := instr_cases i
  · rw [encode_readInstr, tableDecodesThePriorityChains, (readInstr_wf_iff t b a).mp hwf]
  · rw [encode_writeInstr, decode_of_mnemonic (mnemonic_selectRow_write b a d), (writeInstr_wf_iff t b a d).mp hwf,
      build_writeMnemonic]
  · decide
  · decide

/-- Settles O3: a RD or WR word that decodes is built from its fields, so it decodes to its resolved operation. -/
theorem decodedWordIsItsOperationsWord : Obligations.DecodedWordIsItsOperationsWord := by
  intro t i h
  have hop := opField_of_decode h
  obtain ⟨g, b, a, rfl⟩ | ⟨g, b, a, d, rfl⟩ | rfl | rfl := instr_cases i
  · obtain ⟨b', a', d, rfl⟩ := exists_mkWord_of_decode h (hop.trans (opCodeOf_readInstr g b a)) (.inl rfl)
    have hi := Except.ok.inj (h.symm.trans (tableDecodesThePriorityChains b' a' d))
    rw [hi, opField_mkWord, if_pos rfl, encode_readInstr, mkWord_and_clearData]
    exact ⟨(readInstr_wf_iff _ b' a').mpr rfl, rfl⟩
  · obtain ⟨b', a', d', rfl⟩ := exists_mkWord_of_decode h (hop.trans (opCodeOf_writeInstr g b a d)) (.inr rfl)
    have hi := Except.ok.inj (h.symm.trans (tableDecodesTheWriteRule b' a' d'))
    rw [hi, opField_mkWord, if_neg (by decide), if_pos rfl, encode_writeInstr]
    exact ⟨(writeInstr_wf_iff _ b' a' d').mpr rfl, BitVec.and_allOnes.symm⟩
  · rw [hop, if_neg (by decide), if_neg (by decide), and_opMask, hop]
    exact ⟨rfl, rfl⟩
  · rw [hop, if_neg (by decide), if_neg (by decide), and_opMask, hop]
    exact ⟨rfl, rfl⟩

/-- Settles O1: one evaluation of the decoder per word. -/
theorem workedDecodesOfTheTable : Obligations.WorkedDecodesOfTheTable := by
  unfold Obligations.WorkedDecodesOfTheTable
  decide

end Sys2Proof.Machine
end

section
/-! PROOFS. The family 40_bus_read: a RD request runs the read of the chain's target, and what each of the ten reads answers.
A read is one of three effects: an answer, an answer with one diagnostic, or a stub's answer. Each is stated once, with its
frame, and the statements add only which store and index the answer comes from. -/

namespace Sys2Proof.Machine

/-! A RD request runs the read of the chain's target (R79). -/

/-- A RD request decodes, under a bank, to the read of the target that the bank's chain selects. -/
theorem decodeRequest_read (b : Bank) (a : Addr) (d : Byte) :
    decodeRequest b (mkWord 0 0 a d) = .ok (readInstr (readTarget b a) b a) := by
  rw [decodeRequest_mkWord (.inl rfl), tableDecodesThePriorityChains]

/-- The read contract is the resolved read of the chain's target. -/
theorem busRead_eq_exec (a : Addr) (s : State) : busRead a s = exec (readInstr (readTarget s.bank a) s.bank a) s := by
  unfold busRead
  cases readTarget s.bank a <;> rfl

/-- Among the RD words, those that decode to the read of a target are the ones its Encoding clause names. -/
theorem readInstr_selectedExactlyWhenWf (t : Target) : SelectedExactlyWhenWf 0 (fun b a _ => readInstr t b a) := by
  intro b a d
  constructor
  · exact fun h => (decodedWordIsItsOperationsWord _ _ h).1
  · intro hwf
    rw [tableDecodesThePriorityChains, (readInstr_wf_iff t b a).mp hwf]

/-- In the cell of the bank every chain comes down to RAM (R21). -/
theorem readTarget_bankCell (b : Bank) : readTarget b 1 = .ram := by
  revert b
  decide

/-! What a read's effect answers and leaves unchanged (R46). -/

/-- A stub's answer logs one event when the stub logs, nothing otherwise (R31). -/
theorem respondStub_logged (s : State) (g : Target) (stub : Stub) (a : Addr) :
    s.LoggedStubRead (s.respondStub g stub a) stub a := by
  unfold State.LoggedStubRead
  split
  · next hlogs => exact ⟨⟨.unimplementedRegisterRead, a, 0⟩, by rw [respondStub_diag, if_pos hlogs], rfl, rfl⟩
  · next hsilent => rw [respondStub_diag, if_neg hsilent]

section

variable {s : State} {i : Instr} {g : Target} (hadm : s.Admits)

include hadm

/-- A read whose effect is an answer changes nothing but the outputs. -/
theorem exec_respond {v : Byte} (he : effect i s = s.respond g v) :
    ∃ t, exec i s = .next t ∧ t.rdata = some v ∧ s.SameButOutputs t :=
  ⟨s.respond g v, he ▸ exec_of_admits hadm i, rfl, rfl⟩

/-- A read whose effect is an answer with a diagnostic changes nothing but the outputs and the log. -/
theorem exec_respond_emit {v : Byte} {k : DiagKind} {a : Addr} (he : effect i s = (s.respond g v).emit k a 0) :
    ∃ t, exec i s = .next t ∧ t.rdata = some v ∧ s.Logged t k a ∧ s.SameButOutputs { t with diag := s.diag } :=
  ⟨(s.respond g v).emit k a 0, he ▸ exec_of_admits hadm i, rfl, ⟨⟨k, a, 0⟩, rfl, rfl, rfl⟩, rfl⟩

/-- A read whose effect is a stub's answer logs as the stub says and changes nothing else (R31). -/
theorem exec_respondStub {stub : Stub} {a : Addr} (he : effect i s = s.respondStub g stub a) :
    ∃ t, exec i s = .next t ∧ t.rdata = some (stubRd stub) ∧ s.LoggedStubRead t stub a ∧
      s.SameButOutputs { t with diag := s.diag } :=
  ⟨s.respondStub g stub a, he ▸ exec_of_admits hadm i, respondStub_rdata s g stub a, respondStub_logged s g stub a,
    by rw [State.SameButOutputs, respondStub_eq]⟩

end

/-! Where the registers of the stub blocks and the bytes of the images lie (R68). -/

theorem soundStub_soundIndex (c : Cfg) (a : Addr) :
    soundStub c (soundIndex a) = c.soundStubs[a.toNat % 0x20]'(Nat.mod_lt _ (by decide)) := by
  simp only [soundStub, soundIndex_toNat]

theorem videoStub_videoIndex (c : Cfg) (a : Addr) :
    videoStub c (videoIndex a) = c.videoStubs[a.toNat % 0x40]'(Nat.mod_lt _ (by decide)) := by
  simp only [videoStub, videoIndex_toNat]

theorem iotbStub_ioIndex (c : Cfg) (a : Addr) :
    iotbStub c (ioIndex a) = c.iotbStubs[a.toNat % 0x10]'(Nat.mod_lt _ (by decide)) := by
  simp only [iotbStub, ioIndex_toNat]

theorem iotaStub_ioIndex (c : Cfg) (a : Addr) :
    iotaStub c (ioIndex a) = c.iotaStubs[a.toNat % 0x10]'(Nat.mod_lt _ (by decide)) := by
  simp only [iotaStub, ioIndex_toNat]

theorem iotaIsLive_ioIndex (c : Cfg) (a : Addr) :
    iotaIsLive c (ioIndex a) = c.iotaLive[a.toNat % 0x10]'(Nat.mod_lt _ (by decide)) := by
  simp only [iotaIsLive, ioIndex_toNat]

theorem iotaByte_ioIndex (s : State) (a : Addr) :
    s.iotaByte (ioIndex a) = s.iota[a.toNat % 0x10]'(Nat.mod_lt _ (by decide)) := by
  simp only [State.iotaByte, ioIndex_toNat]

/-- A read whose effect answers the image byte at an index that is the address less the window's base. -/
theorem exec_respond_imageByte {s : State} {i : Instr} {g : Target} {n j k : Nat} {image : Vector Byte n}
    (hadm : s.Admits) (he : effect i s = s.respond g (imageByte image j)) (hj : j = k) (hlt : j < n) :
    ∃ h : k < n, ∃ t, exec i s = .next t ∧ t.rdata = some image[k] ∧ s.SameButOutputs t := by
  subst hj
  exact ⟨hlt, exec_respond hadm (imageByte_of_lt image hlt ▸ he)⟩

/-! The windows of the images, from the Encoding clauses. -/

theorem rdBasic_window {b : Bank} {a : Addr} (h : (Instr.rdBasic b a).wf = true) : 0xA000 ≤ a.toNat ∧ a.toNat ≤ 0xBFFF := by
  simp only [Instr.wf, basicVisible, Bool.and_eq_true] at h
  exact (within_iff a 0xA000 0xBFFF).mp h.2

theorem rdKernal_window {b : Bank} {a : Addr} (h : (Instr.rdKernal b a).wf = true) : 0xE000 ≤ a.toNat ∧ a.toNat ≤ 0xFFFF := by
  simp only [Instr.wf, kernalVisible, Bool.and_eq_true] at h
  exact (within_iff a 0xE000 0xFFFF).mp h.2

theorem rdChar_window {b : Bank} {a : Addr} (h : (Instr.rdChar b a).wf = true) : 0xD000 ≤ a.toNat ∧ a.toNat ≤ 0xDFFF := by
  simp only [Instr.wf, charVisible, Bool.and_eq_true] at h
  exact (within_iff a 0xD000 0xDFFF).mp h.2

/-! The statements. -/

/-- Settles O11: the step runs the read of the chain's target, and so does the contract; serving keeps the bank. -/
theorem readRequestIsTheReadContract : Obligations.ReadRequestIsTheReadContract := by
  intro s r rest a d hreq hword
  rw [busRead_eq_exec, served_bank]
  exact step_of_decodeRequest hreq (hword ▸ decodeRequest_read s.bank a d)

/-- Settles O18: each of the three reads has a stub's effect, and its index is the address modulo the block's size. -/
theorem stubReadsAnswerTheirConstant : Obligations.StubReadsAnswerTheirConstant := by
  refine ⟨readInstr_selectedExactlyWhenWf .sound, readInstr_selectedExactlyWhenWf .video,
    readInstr_selectedExactlyWhenWf .iotb, fun s b a hadm => ⟨fun _ => ?_, fun _ => ?_, fun _ => ?_⟩⟩
  · refine ⟨Nat.mod_lt _ (by decide), ?_⟩
    rw [← soundStub_soundIndex]
    exact exec_respondStub hadm rfl
  · refine ⟨Nat.mod_lt _ (by decide), ?_⟩
    rw [← videoStub_videoIndex]
    exact exec_respondStub hadm rfl
  · refine ⟨Nat.mod_lt _ (by decide), ?_⟩
    rw [← iotbStub_ioIndex]
    exact exec_respondStub hadm rfl

/-- Settles O19: a live index answers the port byte, every other has a stub's effect. -/
theorem readIotaAnswersTheLiveByteOrTheStub : Obligations.ReadIotaAnswersTheLiveByteOrTheStub := by
  refine ⟨readInstr_selectedExactlyWhenWf .iota, fun s b a hadm _ => ⟨Nat.mod_lt _ (by decide), ?_⟩⟩
  rw [← iotaIsLive_ioIndex, ← iotaByte_ioIndex, ← iotaStub_ioIndex]
  constructor
  · exact fun hlive => exec_respond hadm (if_pos hlive)
  · exact fun hdead => exec_respondStub hadm (if_neg (by simp [hdead]))

/-- Settles O15: the effect is the answer of the cell. -/
theorem readRamAnswersTheCell : Obligations.ReadRamAnswersTheCell :=
  ⟨readInstr_selectedExactlyWhenWf .ram, fun _ _ _ hadm _ => exec_respond hadm rfl⟩

/-- Settles O16: inside its window, the masked index of each image is the address less the window's base. -/
theorem romReadsAnswerTheImageByte : Obligations.RomReadsAnswerTheImageByte := by
  refine ⟨readInstr_selectedExactlyWhenWf .basic, readInstr_selectedExactlyWhenWf .kernal,
    readInstr_selectedExactlyWhenWf .char, fun s b a hadm => ⟨fun hwf => ?_, fun hwf => ?_, fun hwf => ?_⟩⟩
  · exact exec_respond_imageByte hadm rfl (romIndex_basic (rdBasic_window hwf)) (romIndex a).isLt
  · exact exec_respond_imageByte hadm rfl (romIndex_kernal (rdKernal_window hwf).1) (romIndex a).isLt
  · exact exec_respond_imageByte hadm rfl (windowIndex_toNat (rdChar_window hwf)) (windowIndex a).isLt

/-- Settles O20: the effect is the answer of the RAM byte with one diagnostic. -/
theorem readUnmappedAnswersRamAndLogs : Obligations.ReadUnmappedAnswersRamAndLogs :=
  ⟨readInstr_selectedExactlyWhenWf .unmapped, fun _ _ _ hadm _ => exec_respond_emit hadm rfl⟩

/-- Settles O34: the request is a RD.RAM under every bank, and serving it keeps `ram`. -/
theorem bankCellReadsBackWhole : Obligations.BankCellReadsBackWhole := by
  rintro s rest hadm ⟨d, cv, hreq⟩
  have hstep := step_of_decodeRequest hreq (decodeRequest_read s.bank 1 d)
  rw [readTarget_bankCell] at hstep
  obtain ⟨t, hexec, hdata, -⟩ := exec_respond (i := readInstr .ram s.bank 1) ((served_admits _ _ _).mpr hadm) rfl
  exact ⟨t, hstep.trans hexec, hdata⟩

end Sys2Proof.Machine
end

section
/-! PROOFS. The family 41_bus_write: a WR request runs the write of the write rule's target, and what each of the seven writes
stores and leaves unchanged. All but WR.RAM share the capture, which is stated once of every write's effect; a statement adds
the one store, event or latch that is the write's own, and the frame around it. -/

namespace Sys2Proof.Machine

/-! A WR request runs the write of the write rule's target (R91). -/

/-- A WR request decodes, under a bank, to the write of the target that the write rule selects. -/
theorem decodeRequest_write (b : Bank) (a : Addr) (v : Byte) :
    decodeRequest b (mkWord 1 0 a v) = .ok (writeInstr (writeTarget b a) b a v) := by
  rw [decodeRequest_mkWord (.inr rfl), tableDecodesTheWriteRule]

/-- The write contract is the resolved write of the write rule's target. -/
theorem busWrite_eq_exec (a : Addr) (v : Byte) (s : State) :
    busWrite a v s = exec (writeInstr (writeTarget s.bank a) s.bank a v) s := by
  unfold busWrite
  cases writeTarget s.bank a <;> rfl

/-- A head request `WR a, v` runs the write of the write rule's target. -/
theorem step_of_write {s : State} {r : Request} {rest : List Request} {a : Addr} {v : Byte}
    (hreq : s.requests = r :: rest) (hword : r.word = mkWord 1 0 a v) :
    step s = exec (writeInstr (writeTarget s.bank a) s.bank a v) (s.served r rest) :=
  step_of_decodeRequest hreq (hword ▸ decodeRequest_write s.bank a v)

/-- Among the WR words, those that decode to the write of a target are the ones its Encoding clause names. -/
theorem writeInstr_selectedExactlyWhenWf (g : Target) : SelectedExactlyWhenWf 1 (writeInstr g) := by
  intro b a v
  constructor
  · exact fun h => (decodedWordIsItsOperationsWord _ _ h).1
  · exact fun hwf => encode_writeInstr g b a v ▸ encodedOperationDecodesBack _ hwf

/-! The register path (R91, R98). -/

theorem onRegisterPath_iff (b : Bank) (a : Addr) :
    onRegisterPath b a = true ↔ Bank.registersWritable b = true ∧ 0xD000 ≤ a.toNat ∧ a.toNat ≤ 0xDFFF := by
  simp only [onRegisterPath, Bool.and_eq_true]
  exact and_congr_right fun _ => within_iff a 0xD000 0xDFFF

/-- A write goes to RAM iff it does not take the register path. -/
theorem writeMnemonic_eq_wrRam_iff (b : Bank) (a : Addr) :
    writeMnemonic (writeTarget b a) = .wrRam ↔ ¬ onRegisterPath b a = true := by
  simpa [writeInstr, Instr.wf, writeMnemonic] using (writeInstr_wf_iff .ram b a 0).symm

/-- A well-formed write of a register target takes the register path. -/
theorem onRegisterPath_of_wf {g : Target} {b : Bank} {a : Addr} {v : Byte} (hg : writeMnemonic g ≠ .wrRam)
    (hwf : (writeInstr g b a v).wf = true) : onRegisterPath b a = true := by
  by_contra hram
  have hsame := (writeInstr_wf_iff g b a v).mp hwf
  exact hg (hsame ▸ (writeMnemonic_eq_wrRam_iff b a).mpr hram)

/-! The capture (R98). -/

/-- In the register window an entry of the shadow buffer is the one captured iff it lies at the full address. -/
theorem eq_windowIndex_iff {a : Addr} (ha : 0xD000 ≤ a.toNat ∧ a.toNat ≤ 0xDFFF) (i : BitVec 12) :
    i = windowIndex a ↔ i.toNat + 0xD000 = a.toNat := by
  rw [← BitVec.toNat_inj, windowIndex_toNat ha]
  omega

/-- Every write but WR.RAM captures its byte, and WR.RAM leaves the shadow buffer alone. -/
theorem effect_writeInstr_shadowIO (g : Target) (b : Bank) (a : Addr) (v : Byte) (s : State) :
    (effect (writeInstr g b a v) s).shadowIO =
      if writeMnemonic g = .wrRam then s.shadowIO else (s.capture a v).shadowIO := by
  cases g with
  | video | iota => simp only [writeInstr, effect]; split <;> rfl
  | _ => rfl

/-- On the register path the shadow buffer takes the byte at the full address. -/
theorem captured_of_shadowIO_eq {s t : State} {b : Bank} {a : Addr} {v : Byte} (hshadow : Memory.wf 4096 s.shadowIO = true)
    (hpath : onRegisterPath b a = true) (ht : t.shadowIO = (s.capture a v).shadowIO) : s.Captured t a v := by
  intro i
  obtain ⟨-, hwindow⟩ := (onRegisterPath_iff b a).mp hpath
  have hbyte : t.shadowByte i = (s.capture a v).shadowByte i := by rw [State.shadowByte, ht]; rfl
  rw [hbyte, capture_shadowByte hshadow]
  simp only [eq_windowIndex_iff hwindow]

/-- The effect of a well-formed write of a register target has captured the byte. -/
theorem effect_writeInstr_captured {s : State} (g : Target) {b : Bank} {a : Addr} {v : Byte}
    (hg : writeMnemonic g ≠ .wrRam) (hshadow : Memory.wf 4096 s.shadowIO = true) (hwf : (writeInstr g b a v).wf = true) :
    s.Captured (effect (writeInstr g b a v) s) a v :=
  captured_of_shadowIO_eq hshadow (onRegisterPath_of_wf hg hwf) (by rw [effect_writeInstr_shadowIO, if_neg hg])

/-! The stores of the writes (R93, R95, R96). -/

theorem wrColor_window {b : Bank} {a : Addr} {v : Byte} (h : (Instr.wrColor b a v).wf = true) :
    0xD800 ≤ a.toNat ∧ a.toNat ≤ 0xDBFF := by
  simp only [Instr.wf, Bool.and_eq_true] at h
  exact (within_iff a 0xD800 0xDBFF).mp h.2

/-- In the colour window a cell is the one addressed iff it lies at the full address (R32). -/
theorem eq_cellIndex_iff {a : Addr} (ha : 0xD800 ≤ a.toNat ∧ a.toNat ≤ 0xDBFF) (j : BitVec 10) :
    j = cellIndex a ↔ j.toNat + 0xD800 = a.toNat := by
  rw [← BitVec.toNat_inj, cellIndex_toNat ha]
  omega

theorem effect_wrColor_colorCell (b : Bank) (a : Addr) (v : Byte) (s : State) (j : BitVec 10) :
    (effect (.wrColor b a v) s).colorCell j = if j = cellIndex a then lowNibble v else s.colorCell j := by
  simp [effect]

theorem videoIndex_eq_iff (a : Addr) : videoIndex a = 0x21 ↔ a.toNat % 0x40 = 0x21 := by
  rw [← BitVec.toNat_inj, videoIndex_toNat]
  rfl

theorem effect_wrVideo_bg0 (b : Bank) (a : Addr) (v : Byte) (s : State) :
    (effect (.wrVideo b a v) s).bg0 = if videoIndex a = 0x21 then lowNibble v else s.bg0 := by
  simp only [effect]
  split <;> rfl

/-- WR.VIDEO changes nothing but the background colour, the shadow buffer and the outputs. -/
theorem effect_wrVideo_frame (b : Bank) (a : Addr) (v : Byte) (s : State) :
    s.SameButOutputs { effect (.wrVideo b a v) s with bg0 := s.bg0, shadowIO := s.shadowIO } := by
  simp only [effect]
  split <;> rfl

theorem effect_wrIota_of_live {s : State} {a : Addr} (hlive : iotaIsLive s.cfg (ioIndex a) = true) (b : Bank) (v : Byte) :
    effect (.wrIota b a v) s = (s.registerWrite .iota a v).storeIota (ioIndex a) v := if_pos hlive

theorem effect_wrIota_of_dead {s : State} {a : Addr} (hdead : iotaIsLive s.cfg (ioIndex a) = false) (b : Bank) (v : Byte) :
    effect (.wrIota b a v) s = (s.registerWrite .iota a v).emit .unimplementedRegisterWrite a v :=
  if_neg (by simp [hdead])

/-- A byte of I/O-timer block A is the one addressed iff its index is the address modulo the block's size (R28). -/
theorem eq_ioIndex_iff (a : Addr) (r : BitVec 4) : r = ioIndex a ↔ r.toNat = a.toNat % 0x10 := by
  rw [← BitVec.toNat_inj, ioIndex_toNat]

/-! The statements. -/

/-- Settles O12: the step runs the write of the write rule's target, and so does the contract; serving keeps the bank. -/
theorem writeRequestIsTheWriteContract : Obligations.WriteRequestIsTheWriteContract := by
  intro s r rest a v hreq hword
  rw [busWrite_eq_exec, served_bank]
  exact step_of_write hreq hword

/-- Settles O22: the effect is one store to `ram`, read back in canonical form. -/
theorem writeRamStoresTheByteAndNothingElse : Obligations.WriteRamStoresTheByteAndNothingElse :=
  ⟨writeInstr_selectedExactlyWhenWf .ram, fun _ b a v hadm hram _ =>
    ⟨_, exec_of_admits hadm _, fun x => effect_wrRam_ramByte hram b a x v, rfl⟩⟩

/-- Settles O23: inside its window, the masked index of the cell is the address less the window's base. -/
theorem writeColorKeepsTheLowNibble : Obligations.WriteColorKeepsTheLowNibble := by
  refine ⟨writeInstr_selectedExactlyWhenWf .color, fun s b a v hadm hshadow hwf =>
    ⟨_, exec_of_admits hadm _, fun j => ?_, effect_writeInstr_captured .color (by decide) hshadow hwf, rfl⟩⟩
  rw [effect_wrColor_colorCell, apply_ite BitVec.toNat, lowNibble_toNat]
  simp only [eq_cellIndex_iff (wrColor_window hwf)]

/-- Settles O25: the masked index is register 0x21 at every mirror of $D021. -/
theorem writeVideoSetsOnlyTheBackground : Obligations.WriteVideoSetsOnlyTheBackground := by
  refine ⟨writeInstr_selectedExactlyWhenWf .video, fun s b a v hadm hshadow hwf =>
    ⟨_, exec_of_admits hadm _, ?_, effect_writeInstr_captured .video (by decide) hshadow hwf,
      effect_wrVideo_frame b a v s⟩⟩
  rw [effect_wrVideo_bg0, apply_ite BitVec.toNat, lowNibble_toNat]
  simp only [videoIndex_eq_iff]

/-- Settles O26: after the capture a live index stores the byte, every other emits one event. -/
theorem writeIotaStoresTheLiveByteOrLogs : Obligations.WriteIotaStoresTheLiveByteOrLogs := by
  refine ⟨writeInstr_selectedExactlyWhenWf .iota, fun s b a v hadm hshadow hwf => ⟨Nat.mod_lt _ (by decide), ?_⟩⟩
  have hcap := effect_writeInstr_captured .iota (by decide) hshadow hwf
  rw [← iotaIsLive_ioIndex]
  constructor
  · intro hlive
    have he := effect_wrIota_of_live hlive b v
    refine ⟨_, exec_of_admits hadm _, fun r => ?_, hcap, by rw [he]; rfl⟩
    rw [he, storeIota_iotaByte, registerWrite_iotaByte]
    simp only [eq_ioIndex_iff]
  · intro hdead
    have he := effect_wrIota_of_dead hdead b v
    exact ⟨_, exec_of_admits hadm _, by rw [he]; rfl, hcap, by rw [he]; rfl⟩

/-- Settles O28: after the capture the latch takes code 1 with the operands, and nothing is emitted. -/
theorem writeUnmappedTakesTheFault : Obligations.WriteUnmappedTakesTheFault :=
  ⟨writeInstr_selectedExactlyWhenWf .unmapped, fun _ _ a v hadm hshadow hwf =>
    ⟨_, ⟨.unknownHardwareWrite, a, v⟩, exec_of_admits hadm _, rfl, rfl, rfl, rfl,
      effect_writeInstr_captured .unmapped (by decide) hshadow hwf, rfl⟩⟩

/-- Settles O29: the served write is WR.RAM exactly off the register path, and every other write captures. -/
theorem captureOnTheRegisterPathOnly : Obligations.CaptureOnTheRegisterPathOnly := by
  rintro s t a v rest hshadow ⟨cv, hreq⟩ hstep
  rw [step_of_write hreq rfl] at hstep
  obtain ⟨-, -, rfl⟩ := exec_next hstep
  rw [State.RegistersWritable, ← onRegisterPath_iff, effect_writeInstr_shadowIO]
  constructor
  · intro hpath
    refine captured_of_shadowIO_eq hshadow hpath ?_
    rw [effect_writeInstr_shadowIO, if_neg fun hram => (writeMnemonic_eq_wrRam_iff s.bank a).mp hram hpath]
    rfl
  · intro hram
    rw [if_pos ((writeMnemonic_eq_wrRam_iff s.bank a).mpr hram), served_shadowIO]

/-- Settles O24: the effect is the common part of a register-path write, the capture alone. -/
theorem writeSoundIsCapturedOnly : Obligations.WriteSoundIsCapturedOnly :=
  ⟨writeInstr_selectedExactlyWhenWf .sound, fun _ _ _ _ hadm hshadow hwf =>
    ⟨_, exec_of_admits hadm _, effect_writeInstr_captured .sound (by decide) hshadow hwf, rfl⟩⟩

/-- Settles O27: after the capture one event is emitted, with the data. -/
theorem writeIotbIsCapturedAndLogged : Obligations.WriteIotbIsCapturedAndLogged :=
  ⟨writeInstr_selectedExactlyWhenWf .iotb, fun _ _ _ _ hadm hshadow hwf =>
    ⟨_, exec_of_admits hadm _, rfl, effect_writeInstr_captured .iotb (by decide) hshadow hwf, rfl⟩⟩

end Sys2Proof.Machine
end

section
/-! PROOFS. The family other, decoding: that the table's rows exclude each other and cover RD and WR, the closed form of the
address map, and what each request word decodes to under a bank. A step is then one of four: a read or a write of the target
the bank selects, FRAME or RESET. -/

namespace Sys2Proof

/-! The rows of the table (R64). -/

/-- Two rows that select one word agree on the bits both look at. -/
theorem Row.compatible_of_matches {r r' : Row} {t : OpWord} (h : r.matches t = true) (h' : r'.matches t = true) :
    r.pattern &&& r'.mask = r'.pattern &&& r.mask := by
  have e : t &&& r.mask = r.pattern := by simpa [Row.matches] using h
  have e' : t &&& r'.mask = r'.pattern := by simpa [Row.matches] using h'
  rw [← e, ← e', BitVec.and_assoc, BitVec.and_assoc, BitVec.and_comm r.mask]

/-- No two rows of the table agree on the bits both look at. -/
theorem decodeTable_incompatible :
    ∀ r ∈ decodeTable, ∀ r' ∈ decodeTable, r.pattern &&& r'.mask = r'.pattern &&& r.mask → r = r' := by
  decide +kernel

theorem row_eq_of_matches {r r' : Row} {t : OpWord} (hr : r ∈ decodeTable) (hr' : r' ∈ decodeTable)
    (h : r.matches t = true) (h' : r'.matches t = true) : r = r' :=
  decodeTable_incompatible r hr r' hr' (Row.compatible_of_matches h h')

/-- A word decodes by whichever row of the table selects it. -/
theorem decode_of_matches {r : Row} {t : OpWord} (hr : r ∈ decodeTable) (h : r.matches t = true) :
    decode t = .ok (r.mnemonic.build t) := by
  unfold decode
  cases hs : selectRow t with
  | none => exact absurd h (List.find?_eq_none.mp hs r hr)
  | some r' =>
    rw [row_eq_of_matches hr (List.mem_of_find?_eq_some hs) h
      (List.find?_some (p := fun x : Row => x.matches t) hs)]

theorem decode_of_opFrame {t : OpWord} (h : opField t = 2) : decode t = .ok .frame :=
  decode_of_matches (r := ⟨.frame, 0x20000000, 0xF0000000⟩) (by decide)
    (by rw [Row.matches, and_opMask, h]; decide)

theorem decode_of_opReset {t : OpWord} (h : opField t = 3) : decode t = .ok .reset :=
  decode_of_matches (r := ⟨.reset, 0x30000000, 0xF0000000⟩) (by decide)
    (by rw [Row.matches, and_opMask, h]; decide)

theorem opCodeOf_lt (i : Instr) : (opCodeOf i).toNat < 4 := by
  cases i <;> simp [opCodeOf]

/-- The four codes of R61. -/
theorem op_cases : ∀ {k : BitVec 4}, k.toNat < 4 → k = 0 ∨ k = 1 ∨ k = 2 ∨ k = 3 := by decide

/-- An `op` of 4 or more is neither RD nor WR. -/
theorem not_access_of_le {t : OpWord} (h : 4 ≤ (opField t).toNat) : ¬ (opField t = 0 ∨ opField t = 1) := by
  rintro (e | e) <;> rw [e] at h <;> exact absurd h (by decide)

/-- No operation has an `op` of 4 or more (R71). -/
theorem decode_reservedOp {t : OpWord} (h : 4 ≤ (opField t).toNat) : decode t = .error .reservedOp := by
  cases hd : decode t with
  | ok i => exact absurd (opField_of_decode hd ▸ h) (Nat.not_le.mpr (opCodeOf_lt i))
  | error e =>
    unfold decode at hd
    split at hd
    · cases hd
    · rw [if_neg (by simpa using not_access_of_le h)] at hd
      exact hd.symm

/-! What a request word decodes to under a bank (R62, R71). -/

/-- A RD or WR request with its must-be-zero bits clear is built from its fields. -/
theorem eq_mkWord_of_zeroField {q : OpWord} (h : zeroField q = 0) : mkWord (opField q) 0 (addrField q) (dataField q) = q := by
  have hz : q.toNat / 2 ^ 24 % 2 ^ 4 = 0 := by
    simpa [zeroField, BitVec.extractLsb'_toNat, Nat.shiftRight_eq_div_pow] using congrArg BitVec.toNat h
  have h27 : q.getLsbD 27 = false := by
    rw [BitVec.getLsbD, Nat.testBit_eq_decide_div_mod_eq, decide_eq_false_iff_not]
    omega
  have hbank : bankField q = 0 := by
    apply BitVec.eq_of_toNat_eq
    simp only [bankField, BitVec.extractLsb'_toNat, Nat.shiftRight_eq_div_pow]
    change q.toNat / 2 ^ 24 % 2 ^ 3 = 0
    omega
  simpa [hbank] using mkWord_fields q h27

/-- A request that is neither RD nor WR is its own decode word (R62). -/
theorem decodeRequest_eq_decode (b : Bank) {q : OpWord} (hop : ¬ (opField q = 0 ∨ opField q = 1)) :
    decodeRequest b q = decode q := by
  have hop : ¬ (opField q == 0 || opField q == 1) = true := by simpa using hop
  rw [decodeRequest, formDecodeWord, if_neg hop, if_neg fun h => hop (Bool.and_eq_true_iff.mp h).1]

theorem decodeRequest_of_opFrame (b : Bank) {q : OpWord} (h : opField q = 2) : decodeRequest b q = .ok .frame := by
  rw [decodeRequest_eq_decode b (by rw [h]; decide), decode_of_opFrame h]

theorem decodeRequest_of_opReset (b : Bank) {q : OpWord} (h : opField q = 3) : decodeRequest b q = .ok .reset := by
  rw [decodeRequest_eq_decode b (by rw [h]; decide), decode_of_opReset h]

theorem decodeRequest_reservedOp (b : Bank) {q : OpWord} (h : 4 ≤ (opField q).toNat) :
    decodeRequest b q = .error .reservedOp := by
  rw [decodeRequest_eq_decode b (not_access_of_le h), decode_reservedOp h]

theorem decodeRequest_reservedBits (b : Bank) {q : OpWord} (hop : opField q = 0 ∨ opField q = 1) (hz : zeroField q ≠ 0) :
    decodeRequest b q = .error .reservedBits := by
  have hop : (opField q == 0 || opField q == 1) = true := by simpa using hop
  rw [decodeRequest, if_pos (Bool.and_eq_true_iff.mpr ⟨hop, bne_iff_ne.mpr hz⟩)]

end Sys2Proof

namespace Sys2Proof.Machine

theorem decodeRequest_of_opRead (b : Bank) {q : OpWord} (hop : opField q = 0) (hz : zeroField q = 0) :
    decodeRequest b q = .ok (readInstr (readTarget b (addrField q)) b (addrField q)) := by
  rw [← decodeRequest_read b (addrField q) (dataField q), ← hop, eq_mkWord_of_zeroField hz]

theorem decodeRequest_of_opWrite (b : Bank) {q : OpWord} (hop : opField q = 1) (hz : zeroField q = 0) :
    decodeRequest b q = .ok (writeInstr (writeTarget b (addrField q)) b (addrField q) (dataField q)) := by
  rw [← decodeRequest_write b (addrField q) (dataField q), ← hop, eq_mkWord_of_zeroField hz]

/-- All that a request can decode to: the read or the write of the target that the bank selects, FRAME or RESET. -/
theorem decodeRequest_ok {b : Bank} {q : OpWord} {i : Instr} (h : decodeRequest b q = .ok i) :
    (opField q = 0 ∧ i = readInstr (readTarget b (addrField q)) b (addrField q)) ∨
    (opField q = 1 ∧ i = writeInstr (writeTarget b (addrField q)) b (addrField q) (dataField q)) ∨
    (opField q = 2 ∧ i = .frame) ∨ (opField q = 3 ∧ i = .reset) := by
  have hz : (opField q = 0 ∨ opField q = 1) → zeroField q = 0 := fun hop => by
    by_contra hz
    rw [decodeRequest_reservedBits b hop hz] at h
    cases h
  obtain hop | hop | hop | hop := op_cases (opField_of_decodeRequest h ▸ opCodeOf_lt i)
  · exact .inl ⟨hop, Except.ok.inj (h.symm.trans (decodeRequest_of_opRead b hop (hz (.inl hop))))⟩
  · exact .inr (.inl ⟨hop, Except.ok.inj (h.symm.trans (decodeRequest_of_opWrite b hop (hz (.inr hop))))⟩)
  · exact .inr (.inr (.inl ⟨hop, Except.ok.inj (h.symm.trans (decodeRequest_of_opFrame b hop))⟩))
  · exact .inr (.inr (.inr ⟨hop, Except.ok.inj (h.symm.trans (decodeRequest_of_opReset b hop))⟩))

/-! What a step does with its head request. -/

theorem step_of_decodeRequest_error {s : State} {r : Request} {rest : List Request} {e : DecodeError}
    (hr : s.requests = r :: rest) (hd : decodeRequest s.bank r.word = .error e) : step s = .refused (refusalOf e) := by
  have hfetch : s.fetch = some (r.word, s.served r rest) := by simp [State.fetch, hr, State.served]
  simp [step, hfetch, hd]

theorem step_of_no_request {s : State} (h : s.requests = []) : step s = .refused .noRequest := by
  simp [step, State.fetch, h]

/-- A step that answers has left its operation's effect on the served state, and the operation was admitted. -/
theorem step_eq_effect {s t : State} {r : Request} {rest : List Request} (hreq : s.requests = r :: rest)
    (h : step s = .next t) :
    ∃ i, decodeRequest s.bank r.word = .ok i ∧ s.CfgValid ∧ (i = .reset ∨ s.NoFault) ∧ t = effect i (s.served r rest) := by
  obtain ⟨r', rest', i, hreq', hd, hx⟩ := step_next h
  obtain ⟨rfl, rfl⟩ : r = r' ∧ rest = rest' := by simpa [hreq] using hreq'
  exact ⟨i, hd, exec_next hx⟩

/-- A head request `RD a` runs the read of the chain's target. -/
theorem step_of_read {s : State} {r : Request} {rest : List Request} {a : Addr} {d : Byte}
    (hreq : s.requests = r :: rest) (hword : r.word = mkWord 0 0 a d) :
    step s = exec (readInstr (readTarget s.bank a) s.bank a) (s.served r rest) :=
  step_of_decodeRequest hreq (hword ▸ decodeRequest_read s.bank a d)

/-! The closed form of the address map (R48). -/

/-- The leading bits of an address, as the range they stand for. -/
theorem extractLsb'_eq_iff {a : Addr} {n w : Nat} (hw : n + w = 16) (k : BitVec w) :
    a.extractLsb' n w = k ↔ k.toNat * 2 ^ n ≤ a.toNat ∧ a.toNat < k.toNat * 2 ^ n + 2 ^ n := by
  have hlt : a.toNat / 2 ^ n < 2 ^ w := by
    rw [Nat.div_lt_iff_lt_mul (Nat.two_pow_pos n), ← pow_add, Nat.add_comm, hw]
    exact a.isLt
  rw [← BitVec.toNat_inj, BitVec.extractLsb'_toNat, Nat.shiftRight_eq_div_pow, Nat.mod_eq_of_lt hlt,
    Nat.div_eq_iff (Nat.two_pow_pos n)]
  have := Nat.two_pow_pos n
  omega

theorem basicVisible_iff (b : Bank) (a : Addr) :
    basicVisible b a = true ↔ b.extractLsb' 0 2 = 0b11#2 ∧ a.extractLsb' 13 3 = 0b101#3 := by
  simp only [basicVisible, Bool.and_eq_true, beq_iff_eq, extractLsb'_eq_iff (n := 13) (w := 3) rfl]
  refine and_congr_right fun _ => (within_iff a 0xA000 0xBFFF).trans ?_
  simp
  omega

theorem kernalVisible_iff (b : Bank) (a : Addr) :
    kernalVisible b a = true ↔ b.getLsbD 1 = true ∧ a.extractLsb' 13 3 = 0b111#3 := by
  simp only [kernalVisible, Bool.and_eq_true, extractLsb'_eq_iff (n := 13) (w := 3) rfl]
  refine and_congr_right fun _ => (within_iff a 0xE000 0xFFFF).trans ?_
  simp
  omega

theorem inRegisterWindow_iff (a : Addr) : Addr.inRegisterWindow a = true ↔ a.extractLsb' 12 4 = 0b1101#4 := by
  rw [extractLsb'_eq_iff (n := 12) (w := 4) rfl]
  refine (within_iff a 0xD000 0xDFFF).trans ?_
  simp
  omega

theorem charVisible_iff (b : Bank) (a : Addr) :
    charVisible b a = true ↔ b.getLsbD 2 = false ∧ b.extractLsb' 0 2 ≠ 0 ∧ a.extractLsb' 12 4 = 0b1101#4 := by
  simp only [charVisible, Bank.registersWritable, Bool.and_eq_true, Bool.not_eq_true', bne_iff_ne, inRegisterWindow_iff,
    and_assoc]

theorem registersVisible_iff (b : Bank) (a : Addr) :
    registersVisible b a = true ↔ b.getLsbD 2 = true ∧ b.extractLsb' 0 2 ≠ 0 ∧ a.extractLsb' 12 4 = 0b1101#4 := by
  simp only [registersVisible, Bank.registersWritable, Bool.and_eq_true, bne_iff_ne, inRegisterWindow_iff, and_assoc]

/-- A read that goes neither to RAM nor to an image is a read of the registers. -/
theorem readTarget_register_iff (b : Bank) (a : Addr) :
    (readTarget b a ≠ .ram ∧ readTarget b a ≠ .basic ∧ readTarget b a ≠ .kernal ∧ readTarget b a ≠ .char) ↔
      registersVisible b a = true := by
  rw [← readTarget_segment]
  have same : registersVisible b (segmentStart a) = registersVisible b a := by
    simp (disch := decide) only [registersVisible, Addr.inRegisterWindow, within_segment]
  rw [← same]
  exact forall_segmentStart
    (P := fun b s => (readTarget b s ≠ .ram ∧ readTarget b s ≠ .basic ∧ readTarget b s ≠ .kernal ∧ readTarget b s ≠ .char) ↔
      registersVisible b s = true) (by decide) b a

theorem writeTarget_ne_ram_iff (b : Bank) (a : Addr) : writeTarget b a ≠ .ram ↔ onRegisterPath b a = true := by
  obtain ⟨hbasic, hkernal, hchar⟩ := writeTarget_ne_rom b a
  rw [← not_iff_not, ← writeMnemonic_eq_wrRam_iff, not_not]
  cases hg : writeTarget b a <;> simp_all [writeMnemonic]

/-! The word that the host puts on the request port for a table word. -/

theorem requestOfTableWord_mkWord {op : BitVec 4} (hop : op = 0 ∨ op = 1) (b : Bank) (a : Addr) (d : Byte) :
    requestOfTableWord (mkWord op b a d) = mkWord op 0 a d := by
  have hop : (opField (mkWord op b a d) == 0 || opField (mkWord op b a d) == 1) = true := by simpa using hop
  rw [requestOfTableWord, if_pos hop, and_eq_mkWord (by rw [BitVec.getLsbD_and, mkWord_bit27, Bool.false_and]), mkWord_inj,
    opField_mkWord, bankField_mkWord, addrField_mkWord, dataField_mkWord]
  exact ⟨BitVec.and_allOnes, BitVec.and_zero, BitVec.and_allOnes, BitVec.and_allOnes⟩

theorem requestOfTableWord_of_not_access {t : OpWord} (hop : ¬ (opField t = 0 ∨ opField t = 1)) :
    requestOfTableWord t = t := if_neg (by simpa using hop)

/-- A request made of a table word decodes, under the word's bank, as the word does. -/
theorem decodeRequest_requestOfTableWord {t : OpWord} {i : Instr} (h : decode t = .ok i) {b : Bank}
    (hb : (opField t = 0 ∨ opField t = 1) → b = bankField t) : decodeRequest b (requestOfTableWord t) = .ok i := by
  by_cases hop : opField t = 0 ∨ opField t = 1
  · rw [hb hop, ← h]
    nth_rw 2 3 [← mkWord_fields t (bit27_of_decode h hop)]
    rw [requestOfTableWord_mkWord hop, decodeRequest_mkWord hop]
  · rw [requestOfTableWord_of_not_access hop, decodeRequest_eq_decode b hop, h]

theorem withBankOf_of_access {s : State} {t : OpWord} (hop : opField t = 0 ∨ opField t = 1) :
    s.withBankOf t = s.storeRam 1 ((s.ramByte 1).extractLsb' 3 5 ++ bankField t) := if_pos (by simpa using hop)

theorem withBankOf_of_not_access {s : State} {t : OpWord} (hop : ¬ (opField t = 0 ∨ opField t = 1)) :
    s.withBankOf t = s := if_neg (by simpa using hop)

/-- Putting the word's bank into `ram[1]` changes nothing but `ram`. -/
theorem withBankOf_eq (s : State) (t : OpWord) : s.withBankOf t = { s with ram := (s.withBankOf t).ram } := by
  by_cases hop : opField t = 0 ∨ opField t = 1
  · rw [withBankOf_of_access hop]; rfl
  · rw [withBankOf_of_not_access hop]

section

variable {s : State} (hwf : Memory.wf 65536 s.ram = true) (t : OpWord)

include hwf

theorem withBankOf_ramByte {a : Addr} (ha : a ≠ 1) : (s.withBankOf t).ramByte a = s.ramByte a := by
  by_cases hop : opField t = 0 ∨ opField t = 1
  · rw [withBankOf_of_access hop, storeRam_ramByte hwf, if_neg ha]
  · rw [withBankOf_of_not_access hop]

theorem withBankOf_bank (hop : opField t = 0 ∨ opField t = 1) : (s.withBankOf t).bank = bankField t := by
  rw [State.bank, withBankOf_of_access hop, storeRam_ramByte hwf, if_pos rfl]
  exact BitVec.extractLsb'_append_eq_right

theorem withBankOf_highBits : ((s.withBankOf t).ramByte 1).extractLsb' 3 5 = (s.ramByte 1).extractLsb' 3 5 := by
  by_cases hop : opField t = 0 ∨ opField t = 1
  · rw [withBankOf_of_access hop, storeRam_ramByte hwf, if_pos rfl]
    exact BitVec.extractLsb'_append_eq_left
  · rw [withBankOf_of_not_access hop]

end

theorem decode_of_decodeTableWord {w : Nat} {i : Instr} (h : decodeTableWord 32 w = some i) :
    w < 2 ^ 32 ∧ decode (BitVec.ofNat 32 w) = .ok i := by
  unfold decodeTableWord at h
  split at h
  · next hw =>
    refine ⟨hw.2, ?_⟩
    cases hd : decode (BitVec.ofNat 32 w) <;> simp_all
  · cases h

/-! The statements. -/

/-- Settles O4: two rows that select one word are compatible and no two rows of the table are; every RD or WR word with
`T[27] = 0` is built from its fields, and such a word decodes. -/
theorem tableRowsAreExclusiveAndComplete : Obligations.TableRowsAreExclusiveAndComplete := by
  refine ⟨fun t r r' hr hr' h h' => row_eq_of_matches hr hr' h h', fun t hop h27 => ?_⟩
  obtain ⟨i, hi⟩ : ∃ i, decode t = .ok i := by
    rw [← mkWord_fields t h27]
    obtain hop | hop := hop <;> rw [hop]
    · exact ⟨_, tableDecodesThePriorityChains _ _ _⟩
    · exact ⟨_, tableDecodesTheWriteRule _ _ _⟩
  obtain ⟨r, hmem, hmatch, -⟩ := decode_ok hi
  exact ⟨r, hmem, hmatch⟩

/-- Settles O7: a target is selected exactly where its Encoding clause holds, and each clause is R48's closed form. -/
theorem addressMapClosedForm : Obligations.AddressMapClosedForm := fun b a =>
  ⟨(readInstr_wf_iff .basic b a).symm.trans (basicVisible_iff b a),
    (readInstr_wf_iff .kernal b a).symm.trans (kernalVisible_iff b a),
    (readInstr_wf_iff .char b a).symm.trans (charVisible_iff b a),
    (readTarget_register_iff b a).trans (registersVisible_iff b a),
    (writeTarget_ne_ram_iff b a).trans (by
      simp only [onRegisterPath, Bank.registersWritable, Bool.and_eq_true, bne_iff_ne, inRegisterWindow_iff])⟩

/-- Settles O8: a reserved word decodes to the error that the step refuses with. -/
theorem reservedRequestsAreRefused : Obligations.ReservedRequestsAreRefused := fun s _ _ hreq =>
  ⟨fun hop => step_of_decodeRequest_error hreq (decodeRequest_reservedOp s.bank hop),
    fun hop hz => step_of_decodeRequest_error hreq (decodeRequest_reservedBits s.bank hop hz)⟩

/-- Settles O13: the rows of FRAME and RESET look at `op` alone. -/
theorem frameAndResetIgnoreTheLowBits : Obligations.FrameAndResetIgnoreTheLowBits := fun s _ _ hreq =>
  ⟨fun hop => step_of_decodeRequest hreq (decodeRequest_of_opFrame s.bank hop),
    fun hop => step_of_decodeRequest hreq (decodeRequest_of_opReset s.bank hop)⟩

/-- Settles O39: the width test is the primitives' own, and each contract is the resolved operation. -/
theorem onlyByteAccessesAreDefined : Obligations.OnlyByteAccessesAreDefined := fun s a _ v =>
  ⟨fun hn => ⟨if_neg hn, if_neg hn⟩, busRead_eq_exec a s, busWrite_eq_exec a v s⟩

/-- Settles O10: the host's request decodes, under the bank put into `ram[1]`, as the table word does; FRAME and RESET put
none there. -/
theorem fetchedTableWordRunsNext : Obligations.FetchedTableWordRunsNext := by
  intro s w i hwf htable
  obtain ⟨hw, hd⟩ := decode_of_decodeTableWord htable
  have hbank := withBankOf_bank hwf (BitVec.ofNat 32 w)
  refine ⟨s.withBankOf (BitVec.ofNat 32 w), ?_, withBankOf_eq s _, hbank, fun a => withBankOf_ramByte hwf _,
    withBankOf_highBits hwf _, fun hi => withBankOf_of_not_access ?_⟩
  · have hserved : ∀ r : Request, r.cursorVisible = s.cursorVisible →
        (s.withFetchWord 32 w).served r s.requests = s.withBankOf (BitVec.ofNat 32 w) := by
      intro r hr
      rw [State.withFetchWord, State.served, hr, Nat.mod_eq_of_lt hw, withBankOf_eq]
    rw [step_of_decodeRequest (i := i) rfl, hserved _ rfl]
    rw [Nat.mod_eq_of_lt hw]
    refine decodeRequest_requestOfTableWord hd fun hop => ?_
    rw [← hbank hop, State.withFetchWord, Nat.mod_eq_of_lt hw]
    rfl
  · rw [opField_of_decode hd]
    obtain rfl | rfl := hi <;> decide

end Sys2Proof.Machine
end

section
/-! PROOFS. The family other, effects: what each operation does to each field of the state, said once per field, and what
follows of every step: the invariant, the log, the latch, the outputs, and that the shadow buffer and the log are never read. -/

namespace Sys2Proof.Machine

/-! The effect, field by field. -/

@[simp] theorem effect_requests (i : Instr) (s : State) : (effect i s).requests = s.requests := by
  cases i with
  | rdIota | wrVideo | wrIota => simp only [effect]; split <;> simp
  | _ => simp [effect]

/-- The event of a stub read, when the stub logs (R31). -/
def stubEvent? (stub : Stub) (a : Addr) : Option Diag :=
  if stubLogs stub then some ⟨.unimplementedRegisterRead, a, 0⟩ else none

/-- The event an operation emits (R118): at most one. -/
def emitted? (i : Instr) (s : State) : Option Diag :=
  match i with
  | .rdSound _ a => stubEvent? (soundStub s.cfg (soundIndex a)) a
  | .rdVideo _ a => stubEvent? (videoStub s.cfg (videoIndex a)) a
  | .rdIota _ a => if iotaIsLive s.cfg (ioIndex a) then none else stubEvent? (iotaStub s.cfg (ioIndex a)) a
  | .rdIotb _ a => stubEvent? (iotbStub s.cfg (ioIndex a)) a
  | .rdUnmapped _ a => some ⟨.unhandledHardwareRead, a, 0⟩
  | .wrIota _ a d => if iotaIsLive s.cfg (ioIndex a) then none else some ⟨.unimplementedRegisterWrite, a, d⟩
  | .wrIotb _ a d => some ⟨.unimplementedRegisterWrite, a, d⟩
  | _ => none

theorem respondStub_diagOut_eq (s : State) (g : Target) (stub : Stub) (a : Addr) :
    (s.respondStub g stub a).diagOut = stubEvent? stub a := respondStub_diagOut s g stub a

theorem respondStub_diag_eq (s : State) (g : Target) (stub : Stub) (a : Addr) :
    (s.respondStub g stub a).diag = s.diag ++ (stubEvent? stub a).toList := by
  rw [respondStub_diag, stubEvent?]
  split <;> simp

/-- The event is on `diag_out` (R36). -/
theorem effect_diagOut (i : Instr) (s : State) : (effect i s).diagOut = emitted? i s := by
  cases i with
  | rdSound | rdVideo | rdIotb => exact respondStub_diagOut_eq _ _ _ _
  | rdIota =>
    simp only [effect, emitted?]
    split
    · rfl
    · exact respondStub_diagOut_eq _ _ _ _
  | wrIota => simp only [effect, emitted?]; split <;> rfl
  | wrVideo => simp only [effect]; split <;> rfl
  | _ => rfl

/-- The event is appended to the log, which only RESET clears (R35). -/
theorem effect_diag {i : Instr} (hi : i ≠ .reset) (s : State) : (effect i s).diag = s.diag ++ (emitted? i s).toList := by
  cases i with
  | rdSound | rdVideo | rdIotb => exact respondStub_diag_eq _ _ _ _
  | rdIota =>
    simp only [effect, emitted?]
    split
    · simp
    · exact respondStub_diag_eq _ _ _ _
  | wrIota => simp only [effect, emitted?]; split <;> simp
  | wrVideo => simp only [effect]; split <;> simp [emitted?]
  | reset => exact absurd rfl hi
  | _ => simp [effect, emitted?]

/-- Only WR.UNMAPPED and RESET touch the latch (R34). -/
theorem effect_fault_cases (i : Instr) (s : State) :
    (∃ b a d, i = .wrUnmapped b a d) ∨ i = .reset ∨ (effect i s).fault = s.fault := by
  cases i with
  | wrUnmapped b a d => exact .inl ⟨b, a, d, rfl⟩
  | reset => exact .inr (.inl rfl)
  | rdIota | wrVideo | wrIota => refine .inr (.inr ?_); simp only [effect]; split <;> simp
  | _ => simp [effect]

/-- Only FRAME and RESET touch the framebuffer (R33). -/
theorem effect_fb_cases (i : Instr) (s : State) : i = .frame ∨ i = .reset ∨ (effect i s).fb = s.fb := by
  cases i with
  | frame => exact .inl rfl
  | reset => exact .inr (.inl rfl)
  | rdIota | wrVideo | wrIota => refine .inr (.inr ?_); simp only [effect]; split <;> simp
  | _ => simp [effect]

/-- Only a WR.IOTA of a live index and RESET touch the live bytes (R29). -/
theorem effect_iota_cases (i : Instr) (s : State) :
    (∃ b a d, i = .wrIota b a d ∧ iotaIsLive s.cfg (ioIndex a) = true) ∨ i = .reset ∨ (effect i s).iota = s.iota := by
  cases i with
  | wrIota b a d =>
    cases hlive : iotaIsLive s.cfg (ioIndex a) with
    | true => exact .inl ⟨b, a, d, rfl, hlive⟩
    | false => exact .inr (.inr (by rw [effect_wrIota_of_dead hlive]; rfl))
  | reset => exact .inr (.inl rfl)
  | rdIota | wrVideo => refine .inr (.inr ?_); simp only [effect]; split <;> simp
  | _ => simp [effect]

/-- The shadow buffer takes a captured byte, is cleared by RESET, or is left alone (R16, R98). -/
theorem effect_shadowIO_cases (i : Instr) (s : State) :
    (∃ a d, (effect i s).shadowIO = (s.capture a d).shadowIO) ∨ i = .reset ∨ (effect i s).shadowIO = s.shadowIO := by
  obtain ⟨g, b, a, rfl⟩ | ⟨g, b, a, d, rfl⟩ | rfl | rfl := instr_cases i
  · refine .inr (.inr ?_)
    cases g with
    | iota => simp only [readInstr, effect]; split <;> simp
    | _ => simp [readInstr, effect]
  · rw [effect_writeInstr_shadowIO]
    split
    · exact .inr (.inr rfl)
    · exact .inl ⟨a, d, rfl⟩
  · exact .inr (.inr rfl)
  · exact .inr (.inl rfl)

/-! No operation reads the shadow buffer or the log (R16, R35). -/

/-- A state with another shadow buffer and another log. -/
def State.withLogs (s : State) (shadow : Memory) (log : List Diag) (out : Option Diag) : State :=
  { s with shadowIO := shadow, diag := log, diagOut := out }

theorem sameButLogs_iff {s t : State} : s.SameButLogs t ↔ ∃ shadow log out, t = s.withLogs shadow log out := by
  constructor
  · exact fun h => ⟨_, _, _, h⟩
  · rintro ⟨_, _, _, rfl⟩
    rfl

theorem effect_sameButLogs (i : Instr) {s t : State} (h : s.SameButLogs t) : (effect i s).SameButLogs (effect i t) := by
  obtain ⟨shadow, log, out, rfl⟩ := sameButLogs_iff.mp h
  cases i with
  | rdSound | rdVideo | rdIotb => simp only [effect, respondStub_eq]; rfl
  | rdIota | wrVideo => simp only [effect, respondStub_eq, State.withLogs]; split <;> rfl
  | wrIota b a d =>
    cases hlive : iotaIsLive s.cfg (ioIndex a) with
    | true => rw [effect_wrIota_of_live hlive, effect_wrIota_of_live (s := s.withLogs shadow log out) hlive]; rfl
    | false => rw [effect_wrIota_of_dead hlive, effect_wrIota_of_dead (s := s.withLogs shadow log out) hlive]; rfl
  | _ => rfl

theorem served_sameButLogs {s t : State} (h : s.SameButLogs t) (r : Request) (rest : List Request) :
    (s.served r rest).SameButLogs (t.served r rest) := by
  obtain ⟨shadow, log, out, rfl⟩ := sameButLogs_iff.mp h
  rfl

theorem requireConfig_sameButLogs {s t s' t' : State} (h : s.SameButLogs t) (h' : s'.SameButLogs t') :
    outcomesSameButLogs (requireConfig s s') (requireConfig t t') := by
  obtain ⟨shadow, log, out, rfl⟩ := sameButLogs_iff.mp h
  unfold requireConfig State.withLogs
  split
  · exact h'
  · rfl

theorem whenAdmitted_sameButLogs {s t s' t' : State} (h : s.SameButLogs t) (h' : s'.SameButLogs t') :
    outcomesSameButLogs (whenAdmitted s s') (whenAdmitted t t') := by
  have hfault : t.fault = s.fault := by rw [h]
  unfold whenAdmitted
  rw [hfault]
  split
  · exact requireConfig_sameButLogs h h'
  · rfl

theorem exec_sameButLogs (i : Instr) {s t : State} (h : s.SameButLogs t) : outcomesSameButLogs (exec i s) (exec i t) := by
  rw [exec_eq, exec_eq]
  split
  · exact requireConfig_sameButLogs h (effect_sameButLogs i h)
  · exact whenAdmitted_sameButLogs h (effect_sameButLogs i h)

/-- Settles O38: the two states decode the same request under the same bank, and no admission and no effect looks at what
they differ in. -/
theorem logsAreNeverRead : Obligations.LogsAreNeverRead := by
  intro s t h
  have hrequests : t.requests = s.requests := by rw [h]
  have hbank : t.bank = s.bank := bank_eq_of_ram_eq (by rw [h])
  cases hreq : s.requests with
  | nil =>
    rw [step_of_no_request hreq, step_of_no_request (hrequests.trans hreq)]
    rfl
  | cons r rest =>
    cases hd : decodeRequest s.bank r.word with
    | error e =>
      rw [step_of_decodeRequest_error hreq hd, step_of_decodeRequest_error (hrequests.trans hreq) (hbank ▸ hd)]
      rfl
    | ok i =>
      rw [step_of_decodeRequest hreq hd, step_of_decodeRequest (hrequests.trans hreq) (hbank ▸ hd)]
      exact exec_sameButLogs i (served_sameButLogs h r rest)

end Sys2Proof.Machine
end

section
/-! PROOFS. The family other, the invariant: RESET establishes it, and each operation keeps it, one field of the invariant at a
time. -/

namespace Sys2Proof.Machine

/-! Every emitted event is legal (R118, R119). -/

theorem stubEvent?_legal {stub : Stub} {a : Addr} {e : Diag} (he : stubEvent? stub a = some e)
    (ha : (0xD000 ≤ a.toNat ∧ a.toNat ≤ 0xD7FF) ∨ (0xDC00 ≤ a.toNat ∧ a.toNat ≤ 0xDDFF)) : e.Legal := by
  unfold stubEvent? at he
  split at he
  · cases he
    exact ⟨ha, rfl⟩
  · cases he

/-- The address range of an Encoding clause. -/
theorem range_of_clause {p : Bool} {a : Addr} (lo hi : Addr) (h : (p && Addr.within a lo hi) = true) :
    lo.toNat ≤ a.toNat ∧ a.toNat ≤ hi.toNat :=
  (within_iff a lo hi).mp (Bool.and_eq_true_iff.mp h).2

theorem emitted?_legal {i : Instr} {s : State} {e : Diag} (hwf : i.wf = true) (he : emitted? i s = some e) : e.Legal := by
  cases i with
  | rdSound b a =>
    have h := range_of_clause 0xD400 0xD7FF hwf
    exact stubEvent?_legal he (.inl ⟨le_trans (by decide) h.1, h.2⟩)
  | rdVideo b a =>
    have h := range_of_clause 0xD000 0xD3FF hwf
    exact stubEvent?_legal he (.inl ⟨h.1, le_trans h.2 (by decide)⟩)
  | rdIota b a =>
    have h := range_of_clause 0xDC00 0xDCFF hwf
    simp only [emitted?] at he
    split at he
    · cases he
    · exact stubEvent?_legal he (.inr ⟨h.1, le_trans h.2 (by decide)⟩)
  | rdIotb b a =>
    have h := range_of_clause 0xDD00 0xDDFF hwf
    exact stubEvent?_legal he (.inr ⟨le_trans (by decide) h.1, h.2⟩)
  | rdUnmapped b a =>
    have h := range_of_clause 0xDE00 0xDFFF hwf
    cases he
    exact ⟨h.1, h.2, rfl⟩
  | wrIota b a d =>
    have h := range_of_clause 0xDC00 0xDCFF hwf
    simp only [emitted?] at he
    split at he
    · cases he
    · cases he
      exact ⟨h.1, le_trans h.2 (by decide)⟩
  | wrIotb b a d =>
    have h := range_of_clause 0xDD00 0xDDFF hwf
    cases he
    exact ⟨le_trans (by decide) h.1, h.2⟩
  | _ => cases he

/-! The invariant after RESET. -/

theorem restart_inv {s : State} (hc : s.CfgValid) : s.restart.Inv where
  ramWf := resetOf_ram_wf s.cfg hc
  shadowWf := rfl
  deadIota := fun r _ => by simp [State.iotaByte]
  fbShaped := fun _ h => nomatch h
  fbColoured := fun _ h => nomatch h
  faultLegal := fun _ h => nomatch h
  diagLegal := fun _ h => nomatch h
  diagOutLogged := fun _ h => nomatch h
  faultOrDiag := fun h => nomatch h

theorem config_valid : Config.cfg.valid = true := by decide

/-- Settles O54: `resetOf` leaves what RESET leaves, and the configuration of `State.reset` is valid. -/
theorem invariantHoldsAfterReset : Obligations.InvariantHoldsAfterReset :=
  ⟨fun c hc => restart_inv (s := State.resetOf c) hc, restart_inv (s := State.reset) config_valid⟩

/-! Each field of the invariant through an operation other than RESET. -/

section

variable {i : Instr} {s : State}

theorem effect_ramWf (h : Memory.wf 65536 s.ram = true) (hi : i ≠ .reset) : Memory.wf 65536 (effect i s).ram = true := by
  obtain ⟨b, a, d, rfl⟩ | hreset | hram := effect_ram_cases i s
  · exact storeRam_wf (s := s.accept .ram) h a d
  · exact absurd hreset hi
  · rwa [hram]

theorem effect_shadowWf (h : Memory.wf 4096 s.shadowIO = true) (hi : i ≠ .reset) :
    Memory.wf 4096 (effect i s).shadowIO = true := by
  obtain ⟨a, d, hcapture⟩ | hreset | hshadow := effect_shadowIO_cases i s
  · rw [hcapture]
    exact capture_wf h a d
  · exact absurd hreset hi
  · rwa [hshadow]

theorem effect_deadIota (h : ∀ r : BitVec 4, iotaIsLive s.cfg r = false → s.iotaByte r = 0) (hi : i ≠ .reset)
    (r : BitVec 4) (hr : iotaIsLive (effect i s).cfg r = false) : (effect i s).iotaByte r = 0 := by
  rw [effect_cfg] at hr
  obtain ⟨b, a, d, rfl, hlive⟩ | hreset | hiota := effect_iota_cases i s
  · have hne : r ≠ ioIndex a := fun e => by rw [e, hlive] at hr; cases hr
    rw [effect_wrIota_of_live hlive, storeIota_iotaByte, if_neg hne]
    exact h r hr
  · exact absurd hreset hi
  · simpa only [State.iotaByte, hiota] using h r hr

theorem effect_fbShaped (h : ∀ f, s.fb = some f → Framebuffer.Shaped s.cfg.fbW s.cfg.fbH f) (hi : i ≠ .reset)
    (f : Framebuffer) (hf : (effect i s).fb = some f) :
    Framebuffer.Shaped (effect i s).cfg.fbW (effect i s).cfg.fbH f := by
  rw [effect_cfg]
  obtain rfl | hreset | hfb := effect_fb_cases i s
  · cases hf
    exact composeFrame_shaped s
  · exact absurd hreset hi
  · exact h f (hfb ▸ hf)

theorem effect_fbColoured (h : ∀ f, s.fb = some f → Framebuffer.Coloured s.cfg.colourCount f) (hi : i ≠ .reset)
    (f : Framebuffer) (hf : (effect i s).fb = some f) : Framebuffer.Coloured (effect i s).cfg.colourCount f := by
  rw [effect_cfg]
  obtain rfl | hreset | hfb := effect_fb_cases i s
  · cases hf
    exact composeFrame_coloured s
  · exact absurd hreset hi
  · exact h f (hfb ▸ hf)

/-- An operation that leaves the latch set, admitted with the latch clear, is a WR.UNMAPPED, and the record is its operands. -/
theorem effect_fault_some {r : FaultRecord} (hnf : s.NoFault) (hr : (effect i s).fault = some r) :
    ∃ b a d, i = .wrUnmapped b a d ∧ r = ⟨.unknownHardwareWrite, a, d⟩ := by
  obtain ⟨b, a, d, rfl⟩ | rfl | hfault := effect_fault_cases i s
  · exact ⟨b, a, d, rfl, (Option.some.inj hr).symm⟩
  · cases hr
  · rw [hfault, hnf] at hr
    cases hr

theorem wrUnmapped_clause {b : Bank} {a : Addr} {d : Byte} (hwf : (Instr.wrUnmapped b a d).wf = true) :
    Bank.registersWritable b = true ∧ 0xDE00 ≤ a.toNat ∧ a.toNat ≤ 0xDFFF :=
  ⟨((onRegisterPath_iff b a).mp (Bool.and_eq_true_iff.mp hwf).1).1, range_of_clause 0xDE00 0xDFFF hwf⟩

theorem effect_faultLegal (hshadow : Memory.wf 4096 s.shadowIO = true) (hnf : s.NoFault) (hwf : i.wf = true)
    (hbank : ∀ b a d, i = .wrUnmapped b a d → b = s.bank) (r : FaultRecord) (hr : (effect i s).fault = some r) :
    0xDE00 ≤ r.addr.toNat ∧ r.addr.toNat ≤ 0xDFFF ∧ Bank.registersWritable (effect i s).bank = true ∧
      (effect i s).shadowByte (windowIndex r.addr) = r.data := by
  obtain ⟨b, a, d, rfl, rfl⟩ := effect_fault_some hnf hr
  obtain ⟨hwritable, hlo, hhi⟩ := wrUnmapped_clause hwf
  refine ⟨hlo, hhi, hbank b a d rfl ▸ hwritable, ?_⟩
  exact (capture_shadowByte hshadow a d (windowIndex a)).trans (if_pos rfl)

theorem effect_diagLegal (h : ∀ e ∈ s.diag, Diag.Legal e) (hi : i ≠ .reset) (hwf : i.wf = true) (e : Diag)
    (he : e ∈ (effect i s).diag) : Diag.Legal e := by
  rw [effect_diag hi, List.mem_append, Option.mem_toList] at he
  exact he.elim (h e) (emitted?_legal hwf)

theorem effect_diagOutLogged (hi : i ≠ .reset) (e : Diag) (he : (effect i s).diagOut = some e) :
    (effect i s).diag.getLast? = some e := by
  rw [effect_diagOut] at he
  rw [effect_diag hi, he]
  simp

theorem effect_faultOrDiag (hnf : s.NoFault) (h : (effect i s).fault.isSome = true) : (effect i s).diagOut = none := by
  obtain ⟨r, hr⟩ := Option.isSome_iff_exists.mp h
  obtain ⟨b, a, d, rfl, -⟩ := effect_fault_some hnf hr
  rfl

/-- Every admitted operation, its operands where its Encoding clause puts them under the bank of this moment, keeps the
invariant. -/
theorem effect_inv (h : s.Inv) (hc : s.CfgValid) (hadm : i = .reset ∨ s.NoFault) (hwf : i.wf = true)
    (hbank : ∀ b a d, i = .wrUnmapped b a d → b = s.bank) : (effect i s).Inv := by
  by_cases hi : i = .reset
  · rw [hi]
    exact restart_inv hc
  · have hnf := hadm.resolve_left hi
    exact {
      ramWf := effect_ramWf h.ramWf hi
      shadowWf := effect_shadowWf h.shadowWf hi
      deadIota := effect_deadIota h.deadIota hi
      fbShaped := effect_fbShaped h.fbShaped hi
      fbColoured := effect_fbColoured h.fbColoured hi
      faultLegal := effect_faultLegal h.shadowWf hnf hwf hbank
      diagLegal := effect_diagLegal h.diagLegal hi hwf
      diagOutLogged := effect_diagOutLogged hi
      faultOrDiag := effect_faultOrDiag hnf }

end

/-- Taking a request off the list touches no field of the invariant. -/
theorem served_inv {s : State} (h : s.Inv) (r : Request) (rest : List Request) : (s.served r rest).Inv :=
  ⟨h.ramWf, h.shadowWf, h.deadIota, h.fbShaped, h.fbColoured, h.faultLegal, h.diagLegal, h.diagOutLogged, h.faultOrDiag⟩

theorem wf_of_decodeRequest {b : Bank} {q : OpWord} {i : Instr} (h : decodeRequest b q = .ok i) : i.wf = true :=
  (decodedWordIsItsOperationsWord _ _ (decode_of_decodeRequest h)).1

/-- A WR.UNMAPPED that a request decodes to carries the bank of this moment. -/
theorem bank_of_decodeRequest_wrUnmapped {b b' : Bank} {q : OpWord} {a : Addr} {d : Byte}
    (h : decodeRequest b q = .ok (.wrUnmapped b' a d)) : b' = b := by
  obtain ⟨-, e⟩ | ⟨-, e⟩ | ⟨-, e⟩ | ⟨-, e⟩ := decodeRequest_ok h
  · cases hg : readTarget b (addrField q) <;> simp [hg, readInstr] at e
  · cases hg : writeTarget b (addrField q) <;> simp [hg, writeInstr] at e
    exact e.1
  · cases e
  · cases e

/-- Settles O55: the step runs an admitted operation of the request under the bank of this moment, and that keeps the
invariant. -/
theorem everyStepKeepsTheInvariant : Obligations.EveryStepKeepsTheInvariant := by
  intro s t hinv hstep
  obtain ⟨r, rest, i, hreq, hd, hx⟩ := step_next hstep
  obtain ⟨hc, hadm, rfl⟩ := exec_next hx
  refine effect_inv (served_inv hinv r rest) hc hadm (wf_of_decodeRequest hd) fun b a d e => ?_
  subst e
  exact bank_of_decodeRequest_wrUnmapped hd

end Sys2Proof.Machine
end

section
/-! PROOFS. The family other, admission, latch, log and outputs: each follows from what a step that answers has run and from
what its operation does to one field. -/

namespace Sys2Proof.Machine

/-! The admission (R6, R121). -/

theorem exec_of_fault {s : State} {i : Instr} {r : FaultRecord} (hr : s.fault = some r) (hi : i ≠ .reset) :
    exec i s = .refused .faultLatched := by
  rw [exec_eq, if_neg hi, whenAdmitted, hr]

theorem exec_reset_of_valid {s : State} (hc : s.CfgValid) : exec .reset s = .next s.restart :=
  requireConfig_next.mpr ⟨hc, rfl⟩

theorem requireConfig_of_invalid {s after : State} (hc : ¬ s.CfgValid) : requireConfig s after = .refused .invalidConfig :=
  if_neg hc

/-- An invalid configuration refuses every operation, as such unless the latch is set (R6). -/
theorem exec_of_invalid {s : State} (i : Instr) (hc : ¬ s.CfgValid) :
    ∃ x, exec i s = .refused x ∧ (s.fault = none → x = .invalidConfig) := by
  by_cases hi : i = .reset
  · exact ⟨.invalidConfig, by rw [exec_eq, if_pos hi, requireConfig_of_invalid hc], fun _ => rfl⟩
  · cases hf : s.fault with
    | none => exact ⟨.invalidConfig,
        by rw [exec_eq, if_neg hi, whenAdmitted, hf]; exact requireConfig_of_invalid hc, fun _ => rfl⟩
    | some r => exact ⟨.faultLatched, exec_of_fault hf hi, nofun⟩

/-- The constraints of R6 as inequalities between numbers. -/
theorem valid_iff (c : Cfg) : c.valid = true ↔
    c.ram1Reset.toNat % 8 = 7 ∧ 0 < c.rows ∧ 0 < c.cols ∧ c.rows * c.cols ≤ 1024 ∧
    c.screenBase.toNat + c.rows * c.cols ≤ 65536 ∧ c.codepageOffset + 255 ≤ 511 ∧
    c.originX + 8 * c.cols ≤ c.fbW ∧ c.originY + 8 * c.rows ≤ c.fbH := by
  simp only [Cfg.valid, Bool.and_eq_true, beq_iff_eq, decide_eq_true_eq, and_assoc, ← BitVec.toNat_inj,
    BitVec.extractLsb'_toNat, Nat.shiftRight_zero]
  rfl

/-- Settles O43: each broken constraint makes the configuration invalid. -/
theorem brokenConfigurationIsRefused : Obligations.BrokenConfigurationIsRefused := by
  intro s i hbroken
  refine exec_of_invalid i fun hc => ?_
  obtain ⟨hram1, hrows, hcols, hcells, hscreen, hcodepage, hwidth, hheight⟩ := (valid_iff s.cfg).mp hc
  omega

/-- Settles O40: the latch refuses all but RESET, which asks for the configuration alone. -/
theorem onlyResetIsAdmittedWhileFaulted : Obligations.OnlyResetIsAdmittedWhileFaulted := by
  intro s i hc
  refine ⟨fun r hr hi => exec_of_fault hr hi, ?_⟩
  rintro (hnf | rfl)
  · exact ⟨_, exec_of_admits ⟨hc, hnf⟩ i⟩
  · exact ⟨_, exec_reset_of_valid hc⟩

/-- Settles O14: a word that R71 does not reserve decodes, and an admitted operation answers its effect. -/
theorem everyAdmittedRequestIsServed : Obligations.EveryAdmittedRequestIsServed := by
  intro s r rest hadm hreq hop hz
  obtain ⟨i, hd⟩ : ∃ i, decodeRequest s.bank r.word = .ok i := by
    obtain hk | hk | hk | hk := op_cases hop
    · exact ⟨_, decodeRequest_of_opRead _ hk (hz (by rw [hk]; decide))⟩
    · exact ⟨_, decodeRequest_of_opWrite _ hk (hz (by rw [hk]; decide))⟩
    · exact ⟨_, decodeRequest_of_opFrame _ hk⟩
    · exact ⟨_, decodeRequest_of_opReset _ hk⟩
  exact ⟨_, (step_of_decodeRequest hreq hd).trans (exec_of_admits ((served_admits s r rest).mpr hadm) i),
    effect_requests i _⟩

/-! The latch and the log. -/

/-- Settles O41: only a WR.UNMAPPED leaves the latch set, and a step from a latched state runs RESET. -/
theorem latchIsSetByUnmappedWritesAndClearedByReset : Obligations.LatchIsSetByUnmappedWritesAndClearedByReset := by
  intro s t r rest hreq hstep
  obtain ⟨i, hd, -, hadm, rfl⟩ := step_eq_effect hreq hstep
  have hop := opField_of_decodeRequest hd
  constructor
  · intro f hf
    obtain rfl | hnf := hadm
    · cases hf
    · obtain ⟨b, a, d, rfl, rfl⟩ := effect_fault_some (s := s.served r rest) hnf hf
      obtain ⟨haddr, hdata⟩ := operands_of_decodeRequest_write hd rfl
      obtain ⟨hwritable, hlo, hhi⟩ := wrUnmapped_clause (wf_of_decodeRequest hd)
      obtain rfl := bank_of_decodeRequest_wrUnmapped hd
      exact ⟨hnf, hop, haddr.symm, hdata.symm, hlo, hhi, hwritable⟩
  · intro hlatched
    obtain rfl : i = .reset := hadm.resolve_right hlatched
    exact ⟨rfl, hop⟩

/-- An operation that changes the latch emits nothing (R123). -/
theorem emitted?_none_of_fault_ne {i : Instr} {s : State} (h : (effect i s).fault ≠ s.fault) : emitted? i s = none := by
  obtain ⟨b, a, d, rfl⟩ | rfl | hfault := effect_fault_cases i s
  · rfl
  · rfl
  · exact absurd hfault h

/-- Settles O37: the operation appends what it emits, which is on `diag_out`. -/
theorem logIsAppendOnly : Obligations.LogIsAppendOnly := by
  intro s t r rest hreq hstep hop
  obtain ⟨i, hd, -, -, rfl⟩ := step_eq_effect hreq hstep
  have hi : i ≠ .reset := by
    rintro rfl
    exact hop (opField_of_decodeRequest hd)
  refine ⟨(emitted? i (s.served r rest)).toList, effect_diag hi _, ?_, ?_, fun hfault => ?_⟩
  · cases emitted? i (s.served r rest) <;> simp
  · rw [effect_diagOut]
    cases emitted? i (s.served r rest) <;> rfl
  · rw [emitted?_none_of_fault_ne (s := s.served r rest) hfault]
    rfl

/-! The output `sel` (R36, R78). -/

theorem effect_readInstr_sel (g : Target) (b : Bank) (a : Addr) (s : State) : (effect (readInstr g b a) s).sel = some g := by
  cases g with
  | iota => simp only [readInstr, effect]; split <;> simp
  | _ => simp [readInstr, effect]

theorem effect_writeInstr_sel {g : Target} (hg : g ≠ .basic ∧ g ≠ .kernal ∧ g ≠ .char) (b : Bank) (a : Addr) (d : Byte)
    (s : State) : (effect (writeInstr g b a d) s).sel = some g := by
  obtain ⟨hbasic, hkernal, hchar⟩ := hg
  cases g with
  | basic => exact absurd rfl hbasic
  | kernal => exact absurd rfl hkernal
  | char => exact absurd rfl hchar
  | video | iota => simp only [writeInstr, effect]; split <;> simp
  | _ => simp [writeInstr, effect]

/-- The line of a target is the target's place in the list of R36, RAM first. -/
theorem selLines_some (x : Target) : selLines (some x) = BitVec.twoPow 10 x.ctorIdx := by
  cases x <;> rfl

theorem target_ctorIdx_lt (x : Target) : x.ctorIdx < 10 := by
  cases x <;> decide

theorem selLines_toNat (x : Target) : (selLines (some x)).toNat = 2 ^ x.ctorIdx := by
  rw [selLines_some, BitVec.toNat_twoPow]
  exact Nat.mod_eq_of_lt (Nat.pow_lt_pow_right (by decide) (target_ctorIdx_lt x))

theorem selLines_injective {x y : Target} (h : selLines (some x) = selLines (some y)) : x = y := by
  have hidx : x.ctorIdx = y.ctorIdx :=
    Nat.pow_right_injective le_rfl ((selLines_toNat x).symm.trans ((congrArg BitVec.toNat h).trans (selLines_toNat y)))
  rw [← Target.ofNat_ctorIdx x, hidx, Target.ofNat_ctorIdx y]

/-- The line driven is the one of the target that the bank selects (D1). -/
theorem effect_sel_of_decodeRequest {b : Bank} {q : OpWord} {i : Instr} (h : decodeRequest b q = .ok i) (s : State) :
    (effect i s).sel =
      if opField q = 0 then some (readTarget b (addrField q))
      else if opField q = 1 then some (writeTarget b (addrField q)) else none := by
  obtain ⟨hop, rfl⟩ | ⟨hop, rfl⟩ | ⟨hop, rfl⟩ | ⟨hop, rfl⟩ := decodeRequest_ok h
  · rw [if_pos hop, effect_readInstr_sel]
  · rw [hop, if_neg (by decide), if_pos rfl, effect_writeInstr_sel (writeTarget_ne_rom _ _)]
  · rw [hop]; rfl
  · rw [hop]; rfl

/-- Settles O35: the operation run is the read or the write of the selected target, and drives its line; FRAME and RESET
drive none. -/
theorem selIsTheResolvedTarget : Obligations.SelIsTheResolvedTarget := by
  intro s t r rest hreq hstep
  obtain ⟨i, hd, -, -, rfl⟩ := step_eq_effect hreq hstep
  have hsel := effect_sel_of_decodeRequest hd (s.served r rest)
  refine ⟨fun hop => ?_, fun hop => ?_, fun hop => ?_,
    fun x => ⟨x.ctorIdx, target_ctorIdx_lt x, selLines_toNat x⟩, fun _ _ => selLines_injective, rfl⟩
  · rw [hsel, if_pos hop]
  · rw [hsel, if_neg (by rw [hop]; decide), if_pos hop]
  · rw [hsel, if_neg fun e => by rw [e] at hop; exact absurd hop (by decide),
      if_neg fun e => by rw [e] at hop; exact absurd hop (by decide)]

end Sys2Proof.Machine
end

section
/-! PROOFS. The family other, accesses: the byte that a read answers, as a function of the target and the stores; that reads
leave it alone; what a register-path write leaves alone; and what a read answers after a write to the same address. -/

namespace Sys2Proof.Machine

/-! The byte that a read answers (R80 to R90). -/

/-- The byte of a target at an address. -/
def readByte (g : Target) (a : Addr) (s : State) : Byte :=
  match g with
  | .ram | .unmapped => s.ramByte a
  | .basic => imageByte s.cfg.basicRom (romIndex a).toNat
  | .kernal => imageByte s.cfg.kernalRom (romIndex a).toNat
  | .char => imageByte s.cfg.charRom (windowIndex a).toNat
  | .color => zextNibble (s.colorCell (cellIndex a))
  | .sound => stubRd (soundStub s.cfg (soundIndex a))
  | .video => stubRd (videoStub s.cfg (videoIndex a))
  | .iota =>
    if iotaIsLive s.cfg (ioIndex a) then s.iotaByte (ioIndex a) else stubRd (iotaStub s.cfg (ioIndex a))
  | .iotb => stubRd (iotbStub s.cfg (ioIndex a))

theorem effect_readInstr_rdata (g : Target) (b : Bank) (a : Addr) (s : State) :
    (effect (readInstr g b a) s).rdata = some (readByte g a s) := by
  cases g with
  | iota => simp only [readInstr, effect, readByte]; split <;> simp
  | _ => simp [readInstr, effect, readByte]

/-- A read changes nothing but the log and the outputs (R46). -/
theorem effect_readInstr_frame (g : Target) (b : Bank) (a : Addr) (s : State) :
    s.SameButOutputs { effect (readInstr g b a) s with diag := s.diag } := by
  cases g with
  | sound | video | iotb => simp only [readInstr, effect, respondStub_eq]; rfl
  | iota => simp only [readInstr, effect, respondStub_eq]; split <;> rfl
  | _ => rfl

theorem sameButOutputs_stores {s t : State} (h : s.SameButOutputs t) :
    t.ram = s.ram ∧ t.colorRam = s.colorRam ∧ t.iota = s.iota ∧ t.fault = s.fault := by
  rw [State.SameButOutputs] at h
  rw [h]
  exact ⟨rfl, rfl, rfl, rfl⟩

theorem effect_readInstr_stores (g : Target) (b : Bank) (a : Addr) (s : State) :
    (effect (readInstr g b a) s).ram = s.ram ∧ (effect (readInstr g b a) s).colorRam = s.colorRam ∧
      (effect (readInstr g b a) s).iota = s.iota ∧ (effect (readInstr g b a) s).fault = s.fault :=
  sameButOutputs_stores (t := { effect (readInstr g b a) s with diag := s.diag }) (effect_readInstr_frame g b a s)

/-- The byte depends on the configuration, `ram`, the colour table and the live bytes only. -/
theorem readByte_congr {s t : State} (hcfg : t.cfg = s.cfg) (hram : t.ram = s.ram) (hcolor : t.colorRam = s.colorRam)
    (hiota : t.iota = s.iota) (g : Target) (a : Addr) : readByte g a t = readByte g a s := by
  cases g <;> simp only [readByte, State.ramByte, State.colorCell, State.iotaByte, hcfg, hram, hcolor, hiota]

theorem isReadOperation_cases {i : Instr} (h : IsReadOperation i) : ∃ g b a, i = readInstr g b a := by
  obtain hread | ⟨g, b, a, d, rfl⟩ | rfl | rfl := instr_cases i
  · exact hread
  · cases g <;> exact h.elim
  · exact h.elim
  · exact h.elim

theorem readInstr_ne_reset (g : Target) (b : Bank) (a : Addr) : readInstr g b a ≠ .reset := by
  cases g <;> exact nofun

theorem writeInstr_ne_reset (g : Target) (b : Bank) (a : Addr) (d : Byte) : writeInstr g b a d ≠ .reset := by
  cases g <;> exact nofun

/-- A read that answers was admitted, and so is the same read again. -/
theorem effect_readInstr_admits {s : State} (h : s.Admits) (g : Target) (b : Bank) (a : Addr) :
    (effect (readInstr g b a) s).Admits := by
  obtain ⟨-, -, -, hfault⟩ := effect_readInstr_stores g b a s
  unfold State.Admits State.CfgValid State.NoFault at h ⊢
  rwa [effect_cfg, hfault]

/-- Settles O21: a read's effect leaves alone all that the byte depends on, and it appends at most the one event it emits. -/
theorem readsHaveNoSideEffect : Obligations.ReadsHaveNoSideEffect := by
  intro s t i hi hexec
  obtain ⟨g, b, a, rfl⟩ := isReadOperation_cases hi
  obtain ⟨hc, hadm, rfl⟩ := exec_next hexec
  obtain ⟨hram, hcolor, hiota, -⟩ := effect_readInstr_stores g b a s
  have hagain := effect_readInstr_admits ⟨hc, hadm.resolve_left (readInstr_ne_reset g b a)⟩ g b a
  refine ⟨effect_readInstr_frame g b a s, ?_, by rw [effect_readInstr_rdata]; rfl, _, exec_of_admits hagain _, ?_⟩
  · rw [effect_diag (readInstr_ne_reset g b a)]
    cases emitted? (readInstr g b a) s with
    | none => exact .inl (List.append_nil _)
    | some e => exact .inr ⟨e, rfl⟩
  · rw [effect_readInstr_rdata, effect_readInstr_rdata, readByte_congr (effect_cfg _ _) hram hcolor hiota]

theorem zextNibble_toNat (k : Nibble) : (zextNibble k).toNat = k.toNat :=
  BitVec.toNat_setWidth_of_le (by decide)

/-- Settles O17: inside its window, the masked index of the cell is the address less the window's base. -/
theorem readColorAnswersTheCellZeroExtended : Obligations.ReadColorAnswersTheCellZeroExtended := by
  refine ⟨readInstr_selectedExactlyWhenWf .color, fun s b a hadm hwf => ?_⟩
  have hrange : 0xD800 ≤ a.toNat ∧ a.toNat ≤ 0xDBFF := range_of_clause 0xD800 0xDBFF hwf
  have hindex := cellIndex_toNat hrange
  have hlt : a.toNat - 0xD800 < 1024 := by omega
  obtain ⟨t, hexec, hdata, hframe⟩ := exec_respond (i := .rdColor b a) hadm rfl
  have hcell : s.colorCell (cellIndex a) = s.colorRam[a.toNat - 0xD800] := by
    simp only [State.colorCell, hindex]
  exact ⟨hlt, t, _, hexec, hdata, hcell ▸ zextNibble_toNat _, hframe⟩

/-! What a register-path write leaves alone (R47, R99). -/

theorem effect_writeInstr_fb (g : Target) (b : Bank) (a : Addr) (d : Byte) (s : State) :
    (effect (writeInstr g b a d) s).fb = s.fb := by
  obtain h | h | h := effect_fb_cases (writeInstr g b a d) s
  · cases g <;> cases h
  · exact absurd h (writeInstr_ne_reset g b a d)
  · exact h

theorem writeMnemonic_of_writeInstr_eq {g : Target} {b b' : Bank} {a a' : Addr} {d d' : Byte}
    (h : writeInstr g b a d = .wrRam b' a' d') : writeMnemonic g = .wrRam := by
  cases g <;> simp_all [writeInstr, writeMnemonic]

theorem effect_writeInstr_ram {g : Target} (hg : writeMnemonic g ≠ .wrRam) (b : Bank) (a : Addr) (d : Byte) (s : State) :
    (effect (writeInstr g b a d) s).ram = s.ram := by
  obtain ⟨b', a', d', h⟩ | h | h := effect_ram_cases (writeInstr g b a d) s
  · exact absurd (writeMnemonic_of_writeInstr_eq h) hg
  · exact absurd h (writeInstr_ne_reset g b a d)
  · exact h

/-- Every write changes at most one of the colour table, the live bytes, `bg0` and the latch. -/
theorem effect_writeInstr_registerStores (g : Target) (b : Bank) (a : Addr) (d : Byte) (s : State) :
    let t := effect (writeInstr g b a d) s
    (t.iota = s.iota ∧ t.bg0 = s.bg0 ∧ t.fault = s.fault) ∨ (t.colorRam = s.colorRam ∧ t.bg0 = s.bg0 ∧ t.fault = s.fault) ∨
      (t.colorRam = s.colorRam ∧ t.iota = s.iota ∧ t.fault = s.fault) ∨
      (t.colorRam = s.colorRam ∧ t.iota = s.iota ∧ t.bg0 = s.bg0) := by
  cases g with
  | iota => refine .inr (.inl ?_); simp only [writeInstr, effect]; split <;> exact ⟨rfl, rfl, rfl⟩
  | video => refine .inr (.inr (.inl ?_)); simp only [writeInstr, effect]; split <;> exact ⟨rfl, rfl, rfl⟩
  | unmapped => exact .inr (.inr (.inr ⟨rfl, rfl, rfl⟩))
  | _ => exact .inl ⟨rfl, rfl, rfl⟩

/-- A served write leaves the effect of the write rule's target. -/
theorem step_next_of_write {s t : State} {a : Addr} {v : Byte} {rest : List Request} (hreq : s.RequestsWrite a v rest)
    (hstep : step s = .next t) :
    ∃ r : Request, s.Admits ∧ t = effect (writeInstr (writeTarget s.bank a) s.bank a v) (s.served r rest) := by
  obtain ⟨cv, hreq⟩ := hreq
  rw [step_of_write hreq rfl] at hstep
  obtain ⟨hc, hadm, ht⟩ := exec_next hstep
  exact ⟨_, ⟨hc, hadm.resolve_left (writeInstr_ne_reset _ _ _ _)⟩, ht⟩

/-- Settles O30: on the register path the write is none of RAM. -/
theorem registerPathWritesChangeAtMostOneStore : Obligations.RegisterPathWritesChangeAtMostOneStore := by
  intro s t a v rest hwritable hlo hhi hreq hstep
  obtain ⟨r, -, rfl⟩ := step_next_of_write hreq hstep
  have hpath : onRegisterPath s.bank a = true := (onRegisterPath_iff s.bank a).mpr ⟨hwritable, hlo, hhi⟩
  have hg : writeMnemonic (writeTarget s.bank a) ≠ .wrRam := fun h => (writeMnemonic_eq_wrRam_iff s.bank a).mp h hpath
  exact ⟨effect_writeInstr_ram hg _ _ _ _, effect_writeInstr_fb _ _ _ _ _, effect_cfg _ _,
    effect_writeInstr_registerStores _ _ _ _ (s.served r rest)⟩

/-! The targets by bank and range (R48, R66). -/

theorem registersWritable_iff (b : Bank) : Bank.registersWritable b = true ↔ ¬ (b = 0 ∨ b = 4) := by
  revert b
  decide

theorem writeTarget_of_onRegisterPath {b : Bank} {a : Addr} (h : onRegisterPath b a = true) :
    writeTarget b a = registerTarget a := by
  obtain ⟨hb, hwindow⟩ := (onRegisterPath_iff b a).mp h
  have hb : b.extractLsb' 0 2 ≠ 0 := by simpa [Bank.registersWritable] using hb
  exact if_neg (by tauto)

theorem writeTarget_off_registerPath {b : Bank} {a : Addr} (h : ¬ onRegisterPath b a = true) : writeTarget b a = .ram :=
  by_contra fun hne => h ((writeTarget_ne_ram_iff b a).mp hne)

/-- A read that no image answers goes where a write of the same address goes. -/
theorem readTarget_eq_writeTarget {b : Bank} {a : Addr}
    (h : readTarget b a ≠ .basic ∧ readTarget b a ≠ .kernal ∧ readTarget b a ≠ .char) : readTarget b a = writeTarget b a := by
  rw [← readTarget_segment, ← writeTarget_segment] at *
  revert h
  exact forall_segmentStart
    (P := fun b s => (readTarget b s ≠ .basic ∧ readTarget b s ≠ .kernal ∧ readTarget b s ≠ .char) →
      readTarget b s = writeTarget b s) (by decide) b a

/-- Under banks 5 to 7 reads and writes of the register window go to the register sub-decode alike (R84, R91). -/
theorem targets_of_registers {b : Bank} (hb : b = 5 ∨ b = 6 ∨ b = 7) {a : Addr} (hlo : 0xD000 ≤ a.toNat)
    (hhi : a.toNat ≤ 0xDFFF) : readTarget b a = registerTarget a ∧ writeTarget b a = registerTarget a := by
  have hwritable : Bank.registersWritable b = true := by obtain rfl | rfl | rfl := hb <;> decide
  have hbit : b.getLsbD 2 = true := by obtain rfl | rfl | rfl := hb <;> decide
  have hwrite := writeTarget_of_onRegisterPath ((onRegisterPath_iff b a).mpr ⟨hwritable, hlo, hhi⟩)
  have hvisible : registersVisible b a = true := by
    simp only [registersVisible, hbit, hwritable, Bool.true_and]
    exact (within_iff a 0xD000 0xDFFF).mpr ⟨hlo, hhi⟩
  exact ⟨(readTarget_eq_writeTarget ((readTarget_register_iff b a).mpr hvisible).2).trans hwrite, hwrite⟩

theorem registerTarget_iota {a : Addr} (hlo : 0xDC00 ≤ a.toNat) (hhi : a.toNat ≤ 0xDCFF) : registerTarget a = .iota := by
  unfold registerTarget
  rw [if_neg (by omega), if_neg (by omega), if_neg (by omega), if_pos ⟨hlo, hhi⟩]

theorem registerTarget_unmapped {a : Addr} (hlo : 0xDE00 ≤ a.toNat) : registerTarget a = .unmapped := by
  unfold registerTarget
  rw [if_neg (by omega), if_neg (by omega), if_neg (by omega), if_neg (by omega), if_neg (by omega)]

/-! A served request, and the read after a write. -/

/-- An admitted read request leaves the effect of the read of the chain's target. -/
theorem step_read {s : State} {r : Request} {rest : List Request} {a : Addr} {d : Byte} (hadm : s.Admits)
    (hreq : s.requests = r :: rest) (hword : r.word = mkWord 0 0 a d) :
    step s = .next (effect (readInstr (readTarget s.bank a) s.bank a) (s.served r rest)) := by
  rw [step_of_read hreq hword, exec_of_admits ((served_admits s r rest).mpr hadm)]

/-- An admitted write request leaves the effect of the write of the write rule's target. -/
theorem step_write {s : State} {r : Request} {rest : List Request} {a : Addr} {v : Byte} (hadm : s.Admits)
    (hreq : s.requests = r :: rest) (hword : r.word = mkWord 1 0 a v) :
    step s = .next (effect (writeInstr (writeTarget s.bank a) s.bank a v) (s.served r rest)) := by
  rw [step_of_write hreq hword, exec_of_admits ((served_admits s r rest).mpr hadm)]

/-- A write that does not go to the unmapped range leaves the machine admitting. -/
theorem effect_writeInstr_admits {s : State} (h : s.Admits) {g : Target} (hg : g ≠ .unmapped) (b : Bank) (a : Addr) (v : Byte) :
    (effect (writeInstr g b a v) s).Admits := by
  obtain ⟨hc, hnf⟩ := h
  refine ⟨by rw [State.CfgValid, effect_cfg]; exact hc, ?_⟩
  by_contra hlatched
  obtain ⟨r, hr⟩ := Option.ne_none_iff_exists'.mp hlatched
  obtain ⟨b', a', d', e, -⟩ := effect_fault_some hnf hr
  cases g with
  | unmapped => exact hg rfl
  | _ => cases e

/-- The byte that a request `RD a` answers, in a state that admits it. -/
theorem step_read_rdata {s : State} {r : Request} {rest : List Request} {a : Addr} {d : Byte} (hadm : s.Admits)
    (hreq : s.requests = r :: rest) (hword : r.word = mkWord 0 0 a d) :
    ∃ u, step s = .next u ∧ u.rdata = some (readByte (readTarget s.bank a) a s) ∧
      u.diag = s.diag ++ (emitted? (readInstr (readTarget s.bank a) s.bank a) (s.served r rest)).toList :=
  ⟨_, step_read hadm hreq hword, effect_readInstr_rdata _ _ _ _, effect_diag (readInstr_ne_reset _ _ _) _⟩

/-- Settles O36: the write stores the byte at the index of the address, and the read answers the byte of that index; a live
index emits nothing. -/
theorem livePortReadsBackAtEveryMirror : Obligations.LivePortReadsBackAtEveryMirror := by
  rintro s a a' v _ rest' hadm hbank hlo hhi hlo' hhi' hmirror hlive ⟨cv, hreq⟩ rfl
  obtain ⟨-, hwrite⟩ := targets_of_registers hbank (le_trans (by decide) hlo) (le_trans hhi (by decide))
  obtain ⟨hread, -⟩ := targets_of_registers hbank (le_trans (by decide) hlo') (le_trans hhi' (by decide))
  rw [registerTarget_iota hlo hhi] at hwrite
  rw [registerTarget_iota hlo' hhi'] at hread
  have hindex : ioIndex a' = ioIndex a := by rw [← BitVec.toNat_inj, ioIndex_toNat, ioIndex_toNat, hmirror]
  have hstep := step_write hadm hreq rfl
  have hadm' := effect_writeInstr_admits ((served_admits s ⟨mkWord 1 0 a v, cv⟩ (requestRd a' :: rest')).mpr hadm)
    (g := .iota) (by decide) s.bank a v
  rw [hwrite] at hstep
  simp only [writeInstr] at hstep hadm'
  rw [effect_wrIota_of_live (s := s.served _ _) hlive] at hstep hadm'
  obtain ⟨u, hu, hdata, hdiag⟩ := step_read_rdata (a := a') (d := 0) hadm' rfl rfl
  refine ⟨_, u, hstep, hu, ?_, ?_⟩
  · rw [hdata]
    simp [hread, readByte, hindex, hlive]
  · rw [hdiag]
    simp [hread, readInstr, emitted?, hindex, hlive]

/-- Settles O42: off the register path the write is one to RAM; on it the target is the unmapped one; a read never touches the
latch. -/
theorem unmappedRangeIsFatalToWritesOnly : Obligations.UnmappedRangeIsFatalToWritesOnly := by
  intro s a v rest hadm hwf hlo hhi
  have hpath : onRegisterPath s.bank a = true ↔ ¬ (s.bank = 0 ∨ s.bank = 4) := by
    rw [onRegisterPath_iff, registersWritable_iff]
    exact and_iff_left ⟨le_trans (by decide) hlo, hhi⟩
  refine ⟨?_, ?_, ?_⟩
  · rintro ⟨cv, hreq⟩ hbank
    have hstep := step_write hadm hreq rfl
    rw [writeTarget_off_registerPath fun h => hpath.mp h hbank] at hstep
    refine ⟨_, hstep, hadm.2, ?_⟩
    exact (effect_wrRam_ramByte (s := s.served _ _) hwf s.bank a a v).trans (if_pos rfl)
  · rintro ⟨cv, hreq⟩ h0 h4
    have hstep := step_write hadm hreq rfl
    rw [writeTarget_of_onRegisterPath (hpath.mpr (not_or.mpr ⟨h0, h4⟩)), registerTarget_unmapped hlo] at hstep
    exact ⟨_, hstep, rfl, rfl⟩
  · rintro ⟨d, cv, hreq⟩
    obtain ⟨-, -, -, hfault⟩ := effect_readInstr_stores (readTarget s.bank a) s.bank a (s.served ⟨mkWord 0 0 a d, cv⟩ rest)
    exact ⟨_, step_read hadm hreq rfl, hfault.trans hadm.2⟩

/-! R59's table: the banks and ranges of its rows are those of the targets. -/

theorem basicVisible_iff_bank (b : Bank) (a : Addr) :
    basicVisible b a = true ↔ (b = 3 ∨ b = 7) ∧ 0xA000 ≤ a.toNat ∧ a.toNat ≤ 0xBFFF := by
  have bits : ∀ b : Bank, (b.extractLsb' 0 2 == 3) = true ↔ b = 3 ∨ b = 7 := by decide
  rw [basicVisible, Bool.and_eq_true, bits]
  exact and_congr_right fun _ => within_iff a 0xA000 0xBFFF

theorem kernalVisible_iff_bank (b : Bank) (a : Addr) :
    kernalVisible b a = true ↔ (b = 2 ∨ b = 3 ∨ b = 6 ∨ b = 7) ∧ 0xE000 ≤ a.toNat ∧ a.toNat ≤ 0xFFFF := by
  have bits : ∀ b : Bank, b.getLsbD 1 = true ↔ b = 2 ∨ b = 3 ∨ b = 6 ∨ b = 7 := by decide
  rw [kernalVisible, Bool.and_eq_true, bits]
  exact and_congr_right fun _ => within_iff a 0xE000 0xFFFF

theorem charVisible_iff_bank (b : Bank) (a : Addr) :
    charVisible b a = true ↔ (b = 1 ∨ b = 2 ∨ b = 3) ∧ 0xD000 ≤ a.toNat ∧ a.toNat ≤ 0xDFFF := by
  have bits : ∀ b : Bank, (!b.getLsbD 2 && Bank.registersWritable b) = true ↔ b = 1 ∨ b = 2 ∨ b = 3 := by decide
  rw [charVisible, Bool.and_eq_true, bits]
  exact and_congr_right fun _ => within_iff a 0xD000 0xDFFF

theorem registersVisible_iff_bank (b : Bank) (a : Addr) :
    registersVisible b a = true ↔ (b = 5 ∨ b = 6 ∨ b = 7) ∧ 0xD000 ≤ a.toNat ∧ a.toNat ≤ 0xDFFF := by
  have bits : ∀ b : Bank, (b.getLsbD 2 && Bank.registersWritable b) = true ↔ b = 5 ∨ b = 6 ∨ b = 7 := by decide
  rw [registersVisible, Bool.and_eq_true, bits]
  exact and_congr_right fun _ => within_iff a 0xD000 0xDFFF

section

variable {b : Bank} {a : Addr} (c : Cfg) (v : Byte)

theorem readAfterWrite_basic (h : readTarget b a = .basic) :
    readAfterWrite c b a v = some (imageByte c.basicRom (romIndex a).toNat) := by
  obtain ⟨hb, ha⟩ := (basicVisible_iff_bank b a).mp ((readInstr_wf_iff .basic b a).mpr h)
  rw [readAfterWrite, if_pos ha, if_pos hb, romIndex_basic ha]

theorem readAfterWrite_kernal (h : readTarget b a = .kernal) :
    readAfterWrite c b a v = some (imageByte c.kernalRom (romIndex a).toNat) := by
  obtain ⟨hb, hlo, -⟩ := (kernalVisible_iff_bank b a).mp ((readInstr_wf_iff .kernal b a).mpr h)
  rw [readAfterWrite, if_neg (by omega), if_pos hlo, if_pos hb, romIndex_kernal hlo]

theorem readAfterWrite_char (h : readTarget b a = .char) (hlt : a.toNat < 0xDE00) :
    readAfterWrite c b a v = some (imageByte c.charRom (windowIndex a).toNat) := by
  obtain ⟨hb, ha⟩ := (charVisible_iff_bank b a).mp ((readInstr_wf_iff .char b a).mpr h)
  have hpath : ¬ (b = 0 ∨ b = 4) := by obtain rfl | rfl | rfl := hb <;> decide
  rw [readAfterWrite, if_neg (by omega), if_neg (by omega), if_pos ha, if_neg hpath, if_neg (by omega), if_pos hb,
    windowIndex_toNat ha]

theorem readAfterWrite_ram (h : readTarget b a = .ram) : readAfterWrite c b a v = some v := by
  have hwf : ¬ (basicVisible b a = true ∨ kernalVisible b a = true ∨ charVisible b a = true ∨ registersVisible b a = true) := by
    simpa [readInstr, Instr.wf, and_assoc] using (readInstr_wf_iff .ram b a).mpr h
  rw [basicVisible_iff_bank, kernalVisible_iff_bank, charVisible_iff_bank, registersVisible_iff_bank] at hwf
  have banks : ∀ b : Bank, (b = 0 ∨ b = 4) ∨ (b = 1 ∨ b = 2 ∨ b = 3) ∨ (b = 5 ∨ b = 6 ∨ b = 7) := by decide
  have ha := a.isLt
  rw [readAfterWrite]
  by_cases hbasic : 0xA000 ≤ a.toNat ∧ a.toNat ≤ 0xBFFF
  · rw [if_pos hbasic, if_neg fun hb => hwf (.inl ⟨hb, hbasic⟩)]
  rw [if_neg hbasic]
  by_cases hkernal : 0xE000 ≤ a.toNat
  · rw [if_pos hkernal, if_neg fun hb => hwf (.inr (.inl ⟨hb, hkernal, by omega⟩))]
  rw [if_neg hkernal]
  by_cases hwindow : 0xD000 ≤ a.toNat ∧ a.toNat ≤ 0xDFFF
  · rw [if_pos hwindow, if_pos ((banks b).resolve_right fun hb => hwf (.inr (.inr
      (hb.imp (fun h => ⟨h, hwindow⟩) fun h => ⟨h, hwindow⟩))))]
  rw [if_neg hwindow]

theorem readAfterWrite_unmapped (h : writeTarget b a = .unmapped) : readAfterWrite c b a v = none := by
  have hpath : onRegisterPath b a = true := (writeTarget_ne_ram_iff b a).mp (by rw [h]; decide)
  obtain ⟨hwritable, hwindow⟩ := (onRegisterPath_iff b a).mp hpath
  have hlo : 0xDE00 ≤ a.toNat := by
    rw [writeTarget_of_onRegisterPath hpath] at h
    obtain ⟨e, -⟩ | ⟨e, -⟩ | ⟨e, -⟩ | ⟨e, -⟩ | ⟨e, -⟩ | ⟨-, hlo⟩ := registerTarget_range hwindow
    case inr.inr.inr.inr.inr => exact hlo
    all_goals cases h.symm.trans e
  rw [readAfterWrite, if_neg (by omega), if_neg (by omega), if_pos hwindow, if_neg ((registersWritable_iff b).mp hwritable),
    if_pos hlo]

/-- The register rows: the table names the byte of the register target, in a state whose colour cell and live byte the write
has set. -/
theorem readAfterWrite_register {t : State} (hb : b = 5 ∨ b = 6 ∨ b = 7) (ha : 0xD000 ≤ a.toNat ∧ a.toNat ≤ 0xDFFF)
    (hg : registerTarget a ≠ .unmapped)
    (hcolor : registerTarget a = .color → t.colorCell (cellIndex a) = lowNibble v)
    (hiota : registerTarget a = .iota → iotaIsLive t.cfg (ioIndex a) = true → t.iotaByte (ioIndex a) = v) :
    readAfterWrite t.cfg b a v = some (readByte (registerTarget a) a t) := by
  have hpath : ¬ (b = 0 ∨ b = 4) := by obtain rfl | rfl | rfl := hb <;> decide
  have hchar : ¬ (b = 1 ∨ b = 2 ∨ b = 3) := by obtain rfl | rfl | rfl := hb <;> decide
  have hlt : ¬ 0xDE00 ≤ a.toNat := fun h => hg (registerTarget_unmapped h)
  rw [readAfterWrite, if_neg (by omega), if_neg (by omega), if_pos ha, if_neg hpath, if_neg hlt, if_neg hchar]
  obtain ⟨e, hr⟩ | ⟨e, hr⟩ | ⟨e, hr⟩ | ⟨e, hr⟩ | ⟨e, hr⟩ | ⟨e, hr⟩ := registerTarget_range ha
  · rw [e, if_pos hr, readByte]
  · rw [e, if_neg (by omega), if_pos hr.2, readByte]
  · rw [e, if_neg (by omega), if_neg (by omega), if_pos hr.2, readByte, hcolor e]
  · rw [e, if_neg (by omega), if_neg (by omega), if_neg (by omega), if_pos hr.2, readByte]
    split
    · next hlive => rw [hiota e hlive]
    · rfl
  · rw [e, if_neg (by omega), if_neg (by omega), if_neg (by omega), if_neg (by omega), readByte]
  · exact absurd e hg

end

/-- What the table names is the byte of the read's target after the write. -/
theorem readAfterWrite_eq_readByte {s : State} {b : Bank} {a : Addr} (v : Byte) (hwf : Memory.wf 65536 s.ram = true)
    (hg : writeTarget b a ≠ .unmapped) :
    readAfterWrite s.cfg b a v =
      some (readByte (readTarget b a) a (effect (writeInstr (writeTarget b a) b a v) s)) := by
  generalize ht : effect (writeInstr (writeTarget b a) b a v) s = t
  have hcfg : t.cfg = s.cfg := by rw [← ht, effect_cfg]
  rw [← hcfg]
  cases hr : readTarget b a with
  | basic => exact readAfterWrite_basic _ v hr
  | kernal => exact readAfterWrite_kernal _ v hr
  | char =>
    obtain ⟨hb, ha⟩ := (charVisible_iff_bank b a).mp ((readInstr_wf_iff .char b a).mpr hr)
    have hpath : ¬ (b = 0 ∨ b = 4) := by obtain rfl | rfl | rfl := hb <;> decide
    refine readAfterWrite_char _ v hr (Nat.lt_of_not_le fun hlo => hg ?_)
    rw [writeTarget_of_onRegisterPath ((onRegisterPath_iff b a).mpr ⟨(registersWritable_iff b).mpr hpath, ha⟩),
      registerTarget_unmapped hlo]
  | ram =>
    rw [← readTarget_eq_writeTarget (by simp [hr]), hr] at ht
    rw [readAfterWrite_ram _ v hr, readByte, ← ht]
    exact congrArg some ((effect_wrRam_ramByte hwf b a a v).trans (if_pos rfl)).symm
  | _ =>
    obtain ⟨hb, ha⟩ := (registersVisible_iff_bank b a).mp ((readTarget_register_iff b a).mp (by simp [hr]))
    obtain ⟨hread, hwrite⟩ := targets_of_registers hb ha.1 ha.2
    rw [hwrite] at hg ht
    rw [← hr, hread]
    refine readAfterWrite_register v hb ha hg (fun e => ?_) fun e hlive => ?_
    · rw [← ht, e]
      exact (effect_wrColor_colorCell b a v s _).trans (if_pos rfl)
    · rw [← ht, e, writeInstr, effect_wrIota_of_live (hcfg ▸ hlive), storeIota_iotaByte, if_pos rfl]

/-- Settles O31: a write of the unmapped target latches, and the read is refused; after any other write the read answers the
byte of its target, which is the table's. -/
theorem readAfterWriteByRegion : Obligations.ReadAfterWriteByRegion := by
  intro s t a v r d rest hwf hword hreq hstep hbank
  obtain ⟨w, hadm, ht⟩ := step_next_of_write hreq hstep
  have hreq' : t.requests = r :: rest := by rw [ht, effect_requests, served_requests]
  by_cases hg : writeTarget s.bank a = .unmapped
  · have hfault : t.fault = some ⟨.unknownHardwareWrite, a, v⟩ := by rw [ht, hg]; rfl
    rw [readAfterWrite_unmapped s.cfg v hg]
    refine ⟨by rw [hfault]; rfl, ?_⟩
    rw [step_of_read hreq' hword]
    exact exec_of_fault (s := t.served r rest) hfault (readInstr_ne_reset _ _ _)
  · have hadm' : t.Admits := ht ▸ effect_writeInstr_admits ((served_admits s w (r :: rest)).mpr hadm) hg s.bank a v
    have hbyte := readAfterWrite_eq_readByte (s := s.served w (r :: rest)) v hwf hg
    rw [served_cfg, ← ht, ← hbank] at hbyte
    obtain ⟨u, hu, hdata, -⟩ := step_read_rdata hadm' hreq' hword
    rw [← hbank, hbyte]
    exact ⟨hadm'.2, u, hu, hdata⟩

end Sys2Proof.Machine
end

section
/-! PROOFS. The family other, the compositor: where the 64 pixels of a cell lie, what RENDER and the cursor write to a pixel, and
from these every pixel of a composed frame by its position. -/

namespace Sys2Proof.Machine

/-! The pixels of the cells (R102). -/

/-- A pixel position determines the cell and the place in the cell. -/
theorem cell_position_inj {n i j ox oy x x' y y' : Nat} (hx : x < 8) (hx' : x' < 8) (hy : y < 8) (hy' : y' < 8)
    (hpx : ox + 8 * (i % n) + x = ox + 8 * (j % n) + x') (hpy : oy + 8 * (i / n) + y = oy + 8 * (j / n) + y') :
    i = j ∧ y = y' ∧ x = x' := by
  have hcol : i % n = j % n := by omega
  have hrow : i / n = j / n := by omega
  refine ⟨?_, by omega, by omega⟩
  rw [← Nat.div_add_mod i n, ← Nat.div_add_mod j n, hcol, hrow]

theorem cell_column_lt {rows n i : Nat} (hi : i < rows * n) : i % n < n :=
  Nat.mod_lt _ (Nat.pos_of_mul_pos_left (Nat.zero_lt_of_lt hi))

theorem cell_row_lt {rows n i : Nat} (hi : i < rows * n) : i / n < rows :=
  Nat.div_lt_of_lt_mul (Nat.mul_comm rows n ▸ hi)

/-! The cell of a row and a column. -/

theorem cell_column {n row col : Nat} (hcol : col < n) : (row * n + col) % n = col := by
  rw [Nat.mul_comm, Nat.mul_add_mod, Nat.mod_eq_of_lt hcol]

theorem cell_row {n row col : Nat} (hcol : col < n) : (row * n + col) / n = row := by
  rw [Nat.mul_comm, Nat.mul_add_div (Nat.zero_lt_of_lt hcol), Nat.div_eq_of_lt hcol, Nat.add_zero]

theorem cell_lt {rows n row col : Nat} (hrow : row < rows) (hcol : col < n) : row * n + col < rows * n :=
  calc row * n + col < (row + 1) * n := by rw [Nat.succ_mul]; omega
    _ ≤ rows * n := Nat.mul_le_mul_right n hrow

theorem cellOfPixel_none_iff {c : Cfg} {px py : Nat} : cellOfPixel c px py = none ↔
    ¬ (c.originX ≤ px ∧ px < c.originX + 8 * c.cols ∧ c.originY ≤ py ∧ py < c.originY + 8 * c.rows) := by
  unfold cellOfPixel
  split <;> simp [*]

/-- The pixel of a cell at a place is in that cell. -/
theorem cellOfPixel_position {c : Cfg} {i x y : Nat} (hi : i < c.rows * c.cols) (hx : x < 8) (hy : y < 8) :
    cellOfPixel c (c.originX + 8 * (i % c.cols) + x) (c.originY + 8 * (i / c.cols) + y) = some i := by
  have hcol := cell_column_lt hi
  have hrow := cell_row_lt hi
  have hdx : (c.originX + 8 * (i % c.cols) + x - c.originX) / 8 = i % c.cols := by omega
  have hdy : (c.originY + 8 * (i / c.cols) + y - c.originY) / 8 = i / c.cols := by omega
  rw [cellOfPixel, if_pos (by omega), hdx, hdy, Nat.div_add_mod']

/-- A pixel of a cell lies at its place in the cell. -/
theorem position_of_cellOfPixel {c : Cfg} {px py i : Nat} (h : cellOfPixel c px py = some i) :
    i < c.rows * c.cols ∧ px = c.originX + 8 * (i % c.cols) + (px - c.originX) % 8 ∧
      py = c.originY + 8 * (i / c.cols) + (py - c.originY) % 8 := by
  unfold cellOfPixel at h
  split at h
  · next hin =>
    obtain ⟨hxlo, hxhi, hylo, hyhi⟩ := hin
    have hcol : (px - c.originX) / 8 < c.cols := by omega
    have hrow : (py - c.originY) / 8 < c.rows := by omega
    obtain rfl := Option.some.inj h
    rw [cell_column hcol, cell_row hcol]
    exact ⟨cell_lt hrow hcol, by omega, by omega⟩
  · cases h

/-! What RENDER writes to a pixel (R104). -/

section

variable {c : Cfg} {args : RenderArgs}

/-- The colour of the write for pixel `(x, y)` of cell `i`, if there is one. -/
theorem renderPixel_colour (i y x : Nat) :
    (renderPixel c args i y x).map PixelWrite.colour =
      if (glyphRow c args i y).getLsbD (7 - x) then some (foregroundColour c args i) else backgroundColour? args i := by
  unfold renderPixel
  split
  · rfl
  · cases backgroundColour? args i <;> rfl

/-- Writes to one position come from one pixel of one cell. -/
theorem renderPixel_inj {i j x x' y y' : Nat} {w w' : PixelWrite} (hx : x < 8) (hx' : x' < 8) (hy : y < 8) (hy' : y' < 8)
    (h : renderPixel c args i y x = some w) (h' : renderPixel c args j y' x' = some w') (hpos : w.x = w'.x ∧ w.y = w'.y) :
    i = j ∧ y = y' ∧ x = x' := by
  obtain ⟨hwx, hwy⟩ := renderPixel_position h
  obtain ⟨hwx', hwy'⟩ := renderPixel_position h'
  exact cell_position_inj hx hx' hy hy' (hwx.symm.trans (hpos.1.trans hwx')) (hwy.symm.trans (hpos.2.trans hwy'))

/-- The last write of RENDER to a pixel of a cell is the one that the cell makes there. -/
theorem lastWrite_renderWrites {i y x : Nat} (hi : i < c.rows * c.cols) (hy : y < 8) (hx : x < 8) :
    lastWrite (renderWrites c args) (args.originX + 8 * (i % c.cols) + x) (args.originY + 8 * (i / c.cols) + y) =
      (renderPixel c args i y x).map PixelWrite.colour := by
  have same : ∀ w ∈ renderWrites c args, w.x = args.originX + 8 * (i % c.cols) + x →
      w.y = args.originY + 8 * (i / c.cols) + y → renderPixel c args i y x = some w := by
    intro w hw hwx hwy
    obtain ⟨j, y', x', -, hy', hx', h⟩ := mem_renderWrites.mp hw
    obtain ⟨hpx, hpy⟩ := renderPixel_position h
    obtain ⟨rfl, rfl, rfl⟩ := cell_position_inj hx hx' hy hy' (hwx.symm.trans hpx) (hwy.symm.trans hpy)
    exact h
  cases hp : renderPixel c args i y x with
  | none => exact lastWrite_none fun w hw hpos => by cases hp.symm.trans (same w hw hpos.1 hpos.2)
  | some w =>
    refine lastWrite_some ⟨w, mem_renderWrites.mpr ⟨i, y, x, hi, hy, hx, hp⟩, renderPixel_position hp⟩ fun v hv hvx hvy => ?_
    rw [Option.some.inj ((same v hv hvx hvy).symm.trans hp)]

/-- RENDER writes no pixel outside the grid. -/
theorem lastWrite_renderWrites_outside {px py : Nat}
    (h : ¬ (args.originX ≤ px ∧ px < args.originX + 8 * c.cols ∧ args.originY ≤ py ∧ py < args.originY + 8 * c.rows)) :
    lastWrite (renderWrites c args) px py = none := by
  refine lastWrite_none fun w hw hpos => h ?_
  obtain ⟨i, y, x, hi, hy, hx, hp⟩ := mem_renderWrites.mp hw
  obtain ⟨hwx, hwy⟩ := renderPixel_position hp
  have hcol := cell_column_lt hi
  have hrow := cell_row_lt hi
  omega

theorem pixel?_render (f : Framebuffer) (px py : Nat) : Framebuffer.pixel? (render c args f) px py =
    (Framebuffer.pixel? f px py).map fun old => (lastWrite (renderWrites c args) px py).getD old := pixel?_paint _ _ _ _

/-- A pixel that RENDER does not write keeps its colour. -/
theorem pixel?_render_of_none {f : Framebuffer} {px py : Nat} (h : lastWrite (renderWrites c args) px py = none) :
    Framebuffer.pixel? (render c args f) px py = Framebuffer.pixel? f px py := by
  rw [pixel?_render, h]
  exact Option.map_id'

end

/-- Settles O48: two writes to one position come from one cell, row and column, and the loops pass each once. -/
theorem renderWritesEachPixelAtMostOnce : Obligations.RenderWritesEachPixelAtMostOnce := by
  intro c args
  have inj : ∀ {i j x x' y y' : Nat} {w w' : PixelWrite}, x ∈ List.range 8 → x' ∈ List.range 8 → y ∈ List.range 8 →
      y' ∈ List.range 8 → renderPixel c args i y x = some w → renderPixel c args j y' x' = some w' →
      w.x = w'.x ∧ w.y = w'.y → i = j ∧ y = y' ∧ x = x' := by
    simp only [List.mem_range]
    exact renderPixel_inj
  rw [renderWrites, List.pairwise_flatMap]
  refine ⟨fun i _ => ?_, List.nodup_range.imp_of_mem fun {i j} _ _ hij w hw w' hw' hpos => ?_⟩
  · rw [List.pairwise_flatMap]
    refine ⟨fun y hy => ?_, List.nodup_range.imp_of_mem fun {y y'} hy hy' hne w hw w' hw' hpos => ?_⟩
    · rw [List.pairwise_filterMap]
      exact List.nodup_range.imp_of_mem fun {x x'} hx hx' hne w hw w' hw' hpos => hne (inj hx hx' hy hy hw hw' hpos).2.2
    · obtain ⟨x, hx, h⟩ := List.mem_filterMap.mp hw
      obtain ⟨x', hx', h'⟩ := List.mem_filterMap.mp hw'
      exact hne (inj hx hx' hy hy' h h' hpos).2.1
  · obtain ⟨y, hy, hw⟩ := List.mem_flatMap.mp hw
    obtain ⟨y', hy', hw'⟩ := List.mem_flatMap.mp hw'
    obtain ⟨x, hx, h⟩ := List.mem_filterMap.mp hw
    obtain ⟨x', hx', h'⟩ := List.mem_filterMap.mp hw'
    exact hij (inj hx hx' hy hy' h h' hpos).1

/-- Settles O46: the last write to a pixel of a cell is the cell's own, whose colour is the glyph bit's; outside the grid there
is none. -/
theorem renderPaintsTheGlyphBits : Obligations.RenderPaintsTheGlyphBits := by
  intro c args f w h hshaped hwidth hheight
  refine ⟨fun i y x hi hy hx => ?_, fun px py hout => pixel?_render_of_none (lastWrite_renderWrites_outside hout)⟩
  have hcol := cell_column_lt hi
  have hrow := cell_row_lt hi
  obtain ⟨old, hold⟩ := Option.isSome_iff_exists.mp ((shaped_pixel_isSome hshaped).mpr
    (show args.originX + 8 * (i % c.cols) + x < w ∧ args.originY + 8 * (i / c.cols) + y < h by omega))
  rw [pixel?_render, hold, lastWrite_renderWrites hi hy hx, renderPixel_colour]
  change some _ = if (glyphRow c args i y).getLsbD (7 - x) then some (foregroundColour c args i) else _
  split
  · rfl
  · unfold backgroundColour?
    cases args.background <;> rfl

/-- Settles O47: a clear bit without a background table is no write. -/
theorem emptyGlyphIsTransparent : Obligations.EmptyGlyphIsTransparent := by
  intro c args f i hi hbackground hglyph x y hx hy
  refine pixel?_render_of_none ?_
  have hrow : glyphRow c args i y = 0 := hglyph y hy
  rw [lastWrite_renderWrites hi hy hx, renderPixel_colour, hrow, backgroundColour?, hbackground]
  simp

/-! The layers of a frame (R107, R113). -/

theorem lowNibble_zextNibble (k : Nibble) : lowNibble (zextNibble k) = k := by
  apply BitVec.eq_of_toNat_eq
  rw [lowNibble_toNat, zextNibble_toNat, Nat.mod_eq_of_lt k.isLt]

/-- What the text layer of FRAME writes to a pixel. -/
theorem lastWrite_frame (s : State) (px py : Nat) :
    lastWrite (renderWrites s.cfg (frameArgs s)) px py = textPixel? s px py := by
  unfold textPixel?
  cases hcell : cellOfPixel s.cfg px py with
  | none => exact lastWrite_renderWrites_outside (args := frameArgs s) (cellOfPixel_none_iff.mp hcell)
  | some i =>
    obtain ⟨hi, hpx, hpy⟩ := position_of_cellOfPixel hcell
    have hlast := lastWrite_renderWrites (args := frameArgs s) hi (Nat.mod_lt (py - s.cfg.originY) (by decide : 0 < 8))
      (Nat.mod_lt (px - s.cfg.originX) (by decide : 0 < 8))
    have hfg : foregroundColour s.cfg (frameArgs s) i = paletteColour s.cfg (s.colorCell (BitVec.ofNat 10 i)) :=
      congrArg (paletteColour s.cfg) (lowNibble_zextNibble _)
    rw [renderPixel_colour, hfg] at hlast
    change lastWrite _ (s.cfg.originX + 8 * (i % s.cfg.cols) + (px - s.cfg.originX) % 8)
      (s.cfg.originY + 8 * (i / s.cfg.cols) + (py - s.cfg.originY) % 8) = _ at hlast
    rw [← hpx, ← hpy] at hlast
    exact hlast

/-- The writes of the cursor are the 64 pixels of its cell, in its colour. -/
theorem mem_cursorWrites {s : State} {w : PixelWrite} (hcol : (s.ramByte s.cfg.cursorColAddr).toNat < s.cfg.cols)
    (hrow : (s.ramByte s.cfg.cursorRowAddr).toNat < s.cfg.rows) :
    w ∈ cursorWrites s ↔ ∃ y < 8, ∃ x < 8, w =
      ⟨s.cfg.originX + 8 * (s.ramByte s.cfg.cursorColAddr).toNat + x,
        s.cfg.originY + 8 * (s.ramByte s.cfg.cursorRowAddr).toNat + y,
        paletteColour s.cfg (lowNibble (s.ramByte s.cfg.textColourAddr))⟩ := by
  rw [cursorWrites, if_pos ⟨hcol, hrow⟩]
  simp only [List.mem_flatMap, List.mem_map, List.mem_range, eq_comm]

/-- What the cursor writes to a pixel, when it is drawn. -/
theorem lastWrite_cursorWrites {s : State} (hvisible : s.cursorVisible = true) (px py : Nat) :
    lastWrite (cursorWrites s) px py = cursorPixel? s px py := by
  unfold cursorPixel?
  by_cases hin : (s.ramByte s.cfg.cursorColAddr).toNat < s.cfg.cols ∧ (s.ramByte s.cfg.cursorRowAddr).toNat < s.cfg.rows
  · obtain ⟨hcol, hrow⟩ := hin
    by_cases hcell : cellOfPixel s.cfg px py =
        some ((s.ramByte s.cfg.cursorRowAddr).toNat * s.cfg.cols + (s.ramByte s.cfg.cursorColAddr).toNat)
    · rw [if_pos ⟨hvisible, hcell, hcol, hrow⟩]
      obtain ⟨-, hpx, hpy⟩ := position_of_cellOfPixel hcell
      rw [cell_column hcol] at hpx
      rw [cell_row hcol] at hpy
      refine lastWrite_some ⟨_, (mem_cursorWrites hcol hrow).mpr ⟨_, Nat.mod_lt (py - s.cfg.originY) (by decide), _,
        Nat.mod_lt (px - s.cfg.originX) (by decide), rfl⟩, hpx.symm, hpy.symm⟩ fun w hw _ _ => ?_
      obtain ⟨_, _, _, _, rfl⟩ := (mem_cursorWrites hcol hrow).mp hw
      rfl
    · rw [if_neg fun h => hcell h.2.1]
      refine lastWrite_none fun w hw hpos => hcell ?_
      obtain ⟨y, hy, x, hx, rfl⟩ := (mem_cursorWrites hcol hrow).mp hw
      obtain ⟨rfl, rfl⟩ := hpos
      have h := cellOfPixel_position (c := s.cfg) (cell_lt hrow hcol) hx hy
      rwa [cell_column hcol, cell_row hcol] at h
  · rw [if_neg fun h => hin h.2.2]
    simp [cursorWrites, if_neg hin, lastWrite]

/-- A cursor that is not visible covers no pixel. -/
theorem cursorPixel?_of_hidden {s : State} (h : s.cursorVisible = false) (px py : Nat) : cursorPixel? s px py = none :=
  if_neg fun hcovers => by simp [h] at hcovers

/-- The cursor pass on one side of the text gives a pixel the cursor's colour where the cursor is on that side. -/
theorem pixel?_cursorPass (s : State) (onTop : Bool) (f : Framebuffer) (px py : Nat) :
    Framebuffer.pixel? (cursorPass s onTop f) px py = (Framebuffer.pixel? f px py).map fun old =>
      (if s.cfg.cursorOverText = onTop then cursorPixel? s px py else none).getD old := by
  unfold cursorPass
  cases hvisible : s.cursorVisible with
  | false =>
    simp [cursorPixel?_of_hidden hvisible]
  | true =>
    by_cases hside : s.cfg.cursorOverText = onTop
    · simp [hside, pixel?_paint, lastWrite_cursorWrites hvisible]
    · simp [hside]

/-- Every pixel of the framebuffer that FRAME composes is what its position says. -/
theorem pixel?_composeFrame (s : State) {x y : Nat} (hx : x < s.cfg.fbW) (hy : y < s.cfg.fbH) :
    Framebuffer.pixel? (composeFrame s) x y = some (framePixel s x y) := by
  rw [composeFrame, pixel?_cursorPass, pixel?_render, pixel?_cursorPass, pixel?_filled _ hx hy, lastWrite_frame, framePixel]
  cases s.cfg.cursorOverText <;> simp [Option.getD_or]

/-- Two framebuffers of one shape with the same pixels inside are one. -/
theorem framebuffer_ext {w h : Nat} {f g : Framebuffer} (hf : Framebuffer.Shaped w h f) (hg : Framebuffer.Shaped w h g)
    (hpixel : ∀ x y, x < w → y < h → Framebuffer.pixel? f x y = Framebuffer.pixel? g x y) : f = g := by
  refine List.ext_getElem (hf.1.trans hg.1.symm) fun y hy hy' => ?_
  have hrow := hf.2 _ (List.getElem_mem hy)
  have hrow' := hg.2 _ (List.getElem_mem hy')
  refine List.ext_getElem (hrow.trans hrow'.symm) fun x hx hx' => ?_
  have := hpixel x y (hrow ▸ hx) (hf.1 ▸ hy)
  simpa [Framebuffer.pixel?, hy, hy', hx, hx'] using this

/-- Where the cursor does not cover it, a pixel is the text's or the background's. -/
theorem framePixel_of_no_cursor {s : State} {x y : Nat} (hcursor : cursorPixel? s x y = none) :
    framePixel s x y = (textPixel? s x y).getD (paletteColour s.cfg s.bg0) := by
  rw [framePixel, hcursor, Option.none_or, Option.or_none, ite_self]

theorem framePixel_of_uncovered {s : State} {x y : Nat} (htext : textPixel? s x y = none)
    (hcursor : cursorPixel? s x y = none) : framePixel s x y = paletteColour s.cfg s.bg0 := by
  rw [framePixel_of_no_cursor hcursor, htext, Option.getD_none]

/-- The text layer at a place of a cell. -/
theorem textPixel?_position {s : State} {i x y : Nat} (hi : i < s.cfg.rows * s.cfg.cols) (hx : x < 8) (hy : y < 8) :
    textPixel? s (s.cfg.originX + 8 * (i % s.cfg.cols) + x) (s.cfg.originY + 8 * (i / s.cfg.cols) + y) =
      if (imageByte s.cfg.charRom (8 * ((Memory.read s.ram (s.cfg.screenBase.toNat + i)).toNat + s.cfg.codepageOffset)
        + y)).getLsbD (7 - x) then some (paletteColour s.cfg (s.colorCell (BitVec.ofNat 10 i))) else none := by
  have hx8 : (s.cfg.originX + 8 * (i % s.cfg.cols) + x - s.cfg.originX) % 8 = x := by omega
  have hy8 : (s.cfg.originY + 8 * (i / s.cfg.cols) + y - s.cfg.originY) % 8 = y := by omega
  simp only [textPixel?, cellOfPixel_position hi hx hy, hx8, hy8]

/-- A pixel depends on what FRAME reads (R108). -/
theorem framePixel_congr {s s' : State} (h : s.SameDisplay s') (x y : Nat) : framePixel s' x y = framePixel s x y := by
  obtain ⟨hcfg, hcolor, hbg0, hvisible, hcells, hcol, hrow, hcolour⟩ := h
  have hcursor : cursorPixel? s' x y = cursorPixel? s x y := by
    unfold cursorPixel?
    rw [hcfg, hvisible, hcol, hrow, hcolour]
  have htext : textPixel? s' x y = textPixel? s x y := by
    unfold textPixel?
    rw [hcfg]
    cases hcell : cellOfPixel s.cfg x y with
    | none => rfl
    | some i =>
      have hi := (position_of_cellOfPixel hcell).1
      simp only [hcells i hi, State.colorCell, hcolor]
  rw [framePixel, framePixel, hcursor, htext, hcfg, hbg0]

/-! The statements. -/

/-- Settles O45: FRAME stores the composed framebuffer and nothing else. -/
theorem framePixelsAreLayered : Obligations.FramePixelsAreLayered := fun s hadm =>
  ⟨_, composeFrame s, exec_of_admits hadm .frame, rfl, composeFrame_shaped s, fun _ _ hx hy => pixel?_composeFrame s hx hy, rfl⟩

/-- Settles O49: the two framebuffers have one shape and, pixel by pixel, one colour. -/
theorem frameDependsOnTheDisplayStateOnly : Obligations.FrameDependsOnTheDisplayStateOnly := by
  intro s s' hadm hadm' hsame
  have hcfg : s'.cfg = s.cfg := hsame.1
  have hframe : composeFrame s' = composeFrame s := by
    refine framebuffer_ext (hcfg ▸ composeFrame_shaped s') (composeFrame_shaped s) fun x y hx hy => ?_
    rw [pixel?_composeFrame s hx hy, pixel?_composeFrame s' (hcfg ▸ hx) (hcfg ▸ hy), framePixel_congr hsame]
  exact ⟨_, _, composeFrame s, exec_of_admits hadm .frame, exec_of_admits hadm' .frame, rfl, congrArg some hframe⟩

theorem paletteColour_lowNibble (c : Cfg) (v : Byte) :
    paletteColour c (lowNibble v) = c.palette[v.toNat % 16]'(Nat.mod_lt _ (by decide)) := by
  simp only [paletteColour, lowNibble_toNat]

/-- Settles O50: the write sets `bg0` and nothing that text or cursor reads, and an uncovered pixel is the background's. -/
theorem backgroundWriteRecoloursTheNextFrame : Obligations.BackgroundWriteRecoloursTheNextFrame := by
  intro s v hadm
  refine ⟨_, _, _, exec_of_admits hadm (.wrVideo 7 0xD021 v), exec_of_admits (i := .frame) (effect_writeInstr_admits hadm
    (g := .video) (by decide) 7 0xD021 v), rfl, fun x y hx hy htext hcursor => ?_⟩
  refine (pixel?_composeFrame (effect (.wrVideo 7 0xD021 v) s) hx hy).trans ?_
  have hbackground : framePixel (effect (.wrVideo 7 0xD021 v) s) x y = paletteColour s.cfg (lowNibble v) :=
    framePixel_of_uncovered htext hcursor
  rw [hbackground, paletteColour_lowNibble]
  rfl

end Sys2Proof.Machine
end

section
/-! PROOFS. The family other, reset: the value of every state element after RESET, and the first FRAME after it. -/

namespace Sys2Proof.Machine

/-! What the stores read as after RESET (R38). -/

section

variable (s : State)

theorem restart_ramByte (a : Addr) : s.restart.ramByte a = if a = 1 then s.cfg.ram1Reset else 0 := by
  have hone : a = 1 ↔ 1 = a.toNat := by rw [← BitVec.toNat_inj, eq_comm]; rfl
  simp only [State.ramByte, restart_ram, Memory.read, hone]
  rfl

theorem restart_bank (hc : s.CfgValid) : s.restart.bank = 7 := by
  obtain ⟨hram1, -⟩ := (valid_iff s.cfg).mp hc
  rw [State.bank, restart_ramByte, if_pos rfl]
  apply BitVec.eq_of_toNat_eq
  rw [BitVec.extractLsb'_toNat, Nat.shiftRight_zero]
  exact hram1

theorem restart_colorCell (j : BitVec 10) : s.restart.colorCell j = s.cfg.colorReset := by
  simp [State.colorCell]

theorem restart_iotaByte (r : BitVec 4) : s.restart.iotaByte r = 0 := by
  simp [State.iotaByte]

end

theorem restart_admits {s : State} (hc : s.CfgValid) : s.restart.Admits := ⟨hc, rfl⟩

/-- Settles O52: the stores one by one; the bank is the low bits of `RAM1_RESET`, which R6 fixes. -/
theorem resetLeavesTheResetValues : Obligations.ResetLeavesTheResetValues := fun s hc =>
  ⟨_, exec_reset_of_valid hc, rfl, rfl, rfl, restart_ramByte s, restart_bank s hc, restart_colorCell s, fun _ => rfl,
    restart_iotaByte s, rfl, rfl, rfl, rfl⟩

/-! Reading the framebuffer (R33). -/

theorem readPixel_of_pixel? {s : State} {f : Framebuffer} (hf : s.fb = some f) {x y : Nat} {k : Colour}
    (hk : Framebuffer.pixel? f x y = some k) : s.readPixel x y = .ok k := by
  simp [State.readPixel, hf, hk]

theorem readPixel_outside {s : State} {f : Framebuffer} (hf : s.fb = some f) {x y : Nat}
    (hk : Framebuffer.pixel? f x y = none) : s.readPixel x y = .error .pixelOutsideFramebuffer := by
  simp [State.readPixel, hf, hk]

/-- Settles O51: RESET leaves no framebuffer, FRAME one with a pixel at exactly the positions of its shape. -/
theorem framebufferHasNoValueBeforeTheFirstFrame : Obligations.FramebufferHasNoValueBeforeTheFirstFrame := by
  intro s hc
  refine ⟨_, effect .frame s.restart, exec_reset_of_valid hc, fun _ _ => rfl, exec_of_admits (restart_admits hc) .frame,
    fun x y => ?_⟩
  have hfb : (effect .frame s.restart).fb = some (composeFrame s.restart) := rfl
  have hsome : _ ↔ x < s.cfg.fbW ∧ y < s.cfg.fbH := shaped_pixel_isSome (x := x) (y := y) (composeFrame_shaped s.restart)
  split
  · next hin =>
    obtain ⟨k, hk⟩ := Option.isSome_iff_exists.mp (hsome.mpr hin)
    exact ⟨k, readPixel_of_pixel? hfb hk⟩
  · next hout => exact readPixel_outside hfb (Option.not_isSome_iff_eq_none.mp fun h => hout (hsome.mp h))

/-- After RESET every byte of the text buffer is 0, where the buffer does not cover `ram[1]`. -/
theorem restart_textByte {s : State} {i : Nat}
    (hclear : ¬ (s.cfg.screenBase.toNat ≤ 1 ∧ 1 < s.cfg.screenBase.toNat + s.cfg.rows * s.cfg.cols))
    (hi : i < s.cfg.rows * s.cfg.cols) : Memory.read s.restart.ram (s.cfg.screenBase.toNat + i) = 0 := by
  rw [restart_ram, Memory.read, if_neg (by omega)]
  rfl

/-- Settles O53: every text cell holds code 0 and the reset colour, no cursor is drawn, and the background is the reset one. -/
theorem firstFrameAfterReset : Obligations.FirstFrameAfterReset := by
  intro s hc hcursor hclear
  refine ⟨_, _, composeFrame s.restart, exec_reset_of_valid hc, exec_of_admits (restart_admits hc) .frame, rfl,
    fun i y x hi hy hx => ?_⟩
  obtain ⟨-, -, -, -, -, -, hwidth, hheight⟩ := (valid_iff s.cfg).mp hc
  have hcol := cell_column_lt hi
  have hrow := cell_row_lt hi
  have hzero : (0 : Byte).toNat = 0 := rfl
  have htext := textPixel?_position (s := s.restart) hi hx hy
  simp only [restart_cfg, restart_textByte hclear hi, restart_colorCell, hzero, Nat.zero_add] at htext
  rw [pixel?_composeFrame s.restart (by rw [restart_cfg]; omega) (by rw [restart_cfg]; omega),
    framePixel_of_no_cursor (cursorPixel?_of_hidden (s := s.restart) hcursor _ _), htext]
  split <;> rfl

end Sys2Proof.Machine
end
